-- ==== Sys2Proof/Word.lean ====
section
/-!
DEFINITION. The value types of 00_scope.md R7 and R10: bytes, 32-bit words and the two block types.
A block is an array of bytes and has no numeric value (R10), so it is a vector of bytes.
-/

namespace Sys2Proof

/-- An unsigned 8-bit value (00_scope.md R10). -/
abbrev Byte := BitVec 8

/-- An unsigned 32-bit value (00_scope.md R10). -/
abbrev Word := BitVec 32

/-- 16 bytes, byte index 0 first (00_scope.md R7, R10). -/
abbrev Block128 := Vector Byte 16

/-- 32 bytes, byte index 0 first (00_scope.md R7, R10). -/
abbrev Block256 := Vector Byte 32

/-- The expanded key: 44 words (00_scope.md R7, 10_state.md R31). -/
abbrev KeyTable := Vector Word 44

/-- A round-key index that is in range, 0 to 10 (00_scope.md R7). -/
abbrev KeyNumber := Fin 11

/-- A byte address of the 512-byte host window (20_memory.md R60). -/
abbrev WindowAddr := BitVec 9

/-- The all-zero block (10_state.md R25). -/
def zeroBlock (n : Nat) : Vector Byte n := Vector.replicate n 0#8

end Sys2Proof
end

