-- ==== Sys2Proof/Syntax.lean ====
section
/-!
DEFINITION. The commands of 30_encoding.md R93, one constructor per row of the opcode table, in the
table's order. Operands are numbers as an assembler reads them (R97); WellFormed checks their range.
-/

namespace Sys2Proof

/-- One command of the block (30_encoding.md R93). -/
inductive Instr where
  /-- BXOR, 40_block_arith.md R123. -/
  | bxor
  /-- BADD, 40_block_arith.md R124. -/
  | badd
  /-- BRF, 40_block_arith.md R125. -/
  | brf
  /-- BSPLIT, 40_block_arith.md R126. -/
  | bsplit
  /-- BJOIN, 40_block_arith.md R127. -/
  | bjoin
  /-- EXPAND, 41_key_schedule.md R160. -/
  | expand
  /-- SETPOS i, 41_key_schedule.md R161; i is a round-key index. -/
  | setpos (i : Nat)
  /-- GETKEY i, 41_key_schedule.md R162; i is a round-key index. -/
  | getkey (i : Nat)
  /-- NEXTKEY, 41_key_schedule.md R164. -/
  | nextkey
  /-- SBOX b, 41_key_schedule.md R165; b is a byte. -/
  | sbox (b : Nat)
  /-- INITF, 42_feistel.md R191. -/
  | initf
  /-- INITS, 42_feistel.md R192. -/
  | inits
  /-- ENC n, 42_feistel.md R193; n is a round count. -/
  | enc (n : Nat)
  /-- DEC n, 42_feistel.md R194; n is a round count. -/
  | dec (n : Nat)
  /-- JOIN, 42_feistel.md R195. -/
  | join
  /-- NOP, 43_control.md R230. -/
  | nop
  /-- CLRERR, 43_control.md R231. -/
  | clrerr
  deriving DecidableEq, Repr

end Sys2Proof
end

