-- ==== Sys2Proof/WellFormed.lean ====
section
/-!
DEFINITION. The operand checks of 30_encoding.md R97: an operand outside its field has no encoding.
-/

namespace Sys2Proof

/-- The operand fits its field: IMM16 for an index or a round count (30_encoding.md R91, R97), one
byte for SBOX (R91). Commands without an operand are always well formed. -/
def Instr.wellFormed (i : Instr) : Bool :=
  match i with
  | .setpos i => i < 2 ^ 16
  | .getkey i => i < 2 ^ 16
  | .enc n => n < 2 ^ 16
  | .dec n => n < 2 ^ 16
  | .sbox b => b < 2 ^ 8
  | .bxor | .badd | .brf | .bsplit | .bjoin | .expand | .nextkey | .initf | .inits | .join
  | .nop | .clrerr => true

end Sys2Proof
end

