-- ==== Sys2Proof/Decode.lean ====
section
/-!
DEFINITION. Decoding and encoding of command words (30_encoding.md R90 to R95), and the opcode map of
R93 as data, so that the two ways the spec gives decoding (fields in R94, mask and match in R92) can
be held against each other.
-/

namespace Sys2Proof

/-- OPC, bits [31:24] (30_encoding.md R90). -/
def opcField (v : Word) : BitVec 8 := v.extractLsb' 24 8

/-- RSV, bits [23:16] (30_encoding.md R90). -/
def rsvField (v : Word) : BitVec 8 := v.extractLsb' 16 8

/-- IMM16, bits [15:0] (30_encoding.md R90). -/
def imm16Field (v : Word) : BitVec 16 := v.extractLsb' 0 16

/-- Why a word is no command. Every one of these faults EILLEGAL (30_encoding.md R92, R94, R95). -/
inductive DecodeError where
  /-- OPC is in no row (R95). -/
  | unknownOpcode
  /-- OPC names a row and RSV is not 0x00 (R94). -/
  | reservedField
  /-- OPC names a row, RSV is 0x00, and IMM16 has a bit outside the row's operand (R94). -/
  | unusedImmediate
  deriving DecidableEq, Repr

/-- A command that takes no operand: IMM16 must be 0x0000 (30_encoding.md R94). -/
def decodeNoOperand (imm : BitVec 16) (i : Instr) : Except DecodeError Instr :=
  if imm = 0#16 then .ok i else .error .unusedImmediate

/-- SBOX's operand is IMM16[7:0], with IMM16[15:8] = 0x00 (30_encoding.md R91, R94). -/
def decodeSbox (imm : BitVec 16) : Except DecodeError Instr :=
  if imm.extractLsb' 8 8 = 0#8 then .ok (.sbox (imm.extractLsb' 0 8).toNat)
  else .error .unusedImmediate

/-- The row that OPC names, with its operand read from IMM16 (30_encoding.md R91, R93). -/
def decodeOperand (opc : BitVec 8) (imm : BitVec 16) : Except DecodeError Instr :=
  match opc.toNat with
  | 0x30 => decodeNoOperand imm .bxor
  | 0x31 => decodeNoOperand imm .badd
  | 0x32 => decodeNoOperand imm .brf
  | 0x33 => decodeNoOperand imm .bsplit
  | 0x34 => decodeNoOperand imm .bjoin
  | 0x10 => decodeNoOperand imm .expand
  | 0x11 => .ok (.setpos imm.toNat)
  | 0x12 => .ok (.getkey imm.toNat)
  | 0x13 => decodeNoOperand imm .nextkey
  | 0x14 => decodeSbox imm
  | 0x20 => decodeNoOperand imm .initf
  | 0x21 => decodeNoOperand imm .inits
  | 0x22 => .ok (.enc imm.toNat)
  | 0x23 => .ok (.dec imm.toNat)
  | 0x24 => decodeNoOperand imm .join
  | 0x00 => decodeNoOperand imm .nop
  | 0x01 => decodeNoOperand imm .clrerr
  | _ => .error .unknownOpcode

/-- The OPC values of 30_encoding.md R93. -/
def knownOpcodes : List Nat :=
  [0x30, 0x31, 0x32, 0x33, 0x34, 0x10, 0x11, 0x12, 0x13, 0x14, 0x20, 0x21, 0x22, 0x23, 0x24, 0x00, 0x01]

/-- Decoding of a command word, total on all 32-bit words (30_encoding.md R92, R94, R95). -/
def decode (v : Word) : Except DecodeError Instr :=
  if (opcField v).toNat ∉ knownOpcodes then .error .unknownOpcode
  else if rsvField v ≠ 0#8 then .error .reservedField
  else decodeOperand (opcField v) (imm16Field v)

/-- OPC of a command (30_encoding.md R93). -/
def Instr.opcode (i : Instr) : BitVec 8 :=
  match i with
  | .bxor => 0x30#8
  | .badd => 0x31#8
  | .brf => 0x32#8
  | .bsplit => 0x33#8
  | .bjoin => 0x34#8
  | .expand => 0x10#8
  | .setpos _ => 0x11#8
  | .getkey _ => 0x12#8
  | .nextkey => 0x13#8
  | .sbox _ => 0x14#8
  | .initf => 0x20#8
  | .inits => 0x21#8
  | .enc _ => 0x22#8
  | .dec _ => 0x23#8
  | .join => 0x24#8
  | .nop => 0x00#8
  | .clrerr => 0x01#8

/-- IMM16 of a command: its operand, or 0 (30_encoding.md R90, R97). -/
def Instr.immediate (i : Instr) : Nat :=
  match i with
  | .setpos i => i
  | .getkey i => i
  | .sbox b => b
  | .enc n => n
  | .dec n => n
  | .bxor | .badd | .brf | .bsplit | .bjoin | .expand | .nextkey | .initf | .inits | .join
  | .nop | .clrerr => 0

/-- The command word of a well-formed command: OPC * 2^24 + operand (30_encoding.md R97), so RSV is
0x00. -/
def encode (i : Instr) : Word :=
  BitVec.ofNat 32 (i.opcode.toNat * 2 ^ 24 + i.immediate)

/-- One row of the opcode map: the mnemonic with the row's match and mask (30_encoding.md R93). -/
structure OpcodeRow where
  mnemonic : String
  matchWord : Word
  mask : Word
  deriving DecidableEq, Repr

/-- The opcode map of 30_encoding.md R93. -/
def opcodeRows : List OpcodeRow :=
  [⟨"BXOR", 0x30000000#32, 0xFFFFFFFF#32⟩, ⟨"BADD", 0x31000000#32, 0xFFFFFFFF#32⟩,
   ⟨"BRF", 0x32000000#32, 0xFFFFFFFF#32⟩, ⟨"BSPLIT", 0x33000000#32, 0xFFFFFFFF#32⟩,
   ⟨"BJOIN", 0x34000000#32, 0xFFFFFFFF#32⟩] ++
  [⟨"EXPAND", 0x10000000#32, 0xFFFFFFFF#32⟩, ⟨"SETPOS", 0x11000000#32, 0xFFFF0000#32⟩,
   ⟨"GETKEY", 0x12000000#32, 0xFFFF0000#32⟩, ⟨"NEXTKEY", 0x13000000#32, 0xFFFFFFFF#32⟩,
   ⟨"SBOX", 0x14000000#32, 0xFFFFFF00#32⟩] ++
  [⟨"INITF", 0x20000000#32, 0xFFFFFFFF#32⟩, ⟨"INITS", 0x21000000#32, 0xFFFFFFFF#32⟩,
   ⟨"ENC", 0x22000000#32, 0xFFFF0000#32⟩, ⟨"DEC", 0x23000000#32, 0xFFFF0000#32⟩,
   ⟨"JOIN", 0x24000000#32, 0xFFFFFFFF#32⟩] ++
  [⟨"NOP", 0x00000000#32, 0xFFFFFFFF#32⟩, ⟨"CLRERR", 0x01000000#32, 0xFFFFFFFF#32⟩]

/-- A row matches v when (v AND mask) = match (30_encoding.md R92). -/
def OpcodeRow.accepts (r : OpcodeRow) (v : Word) : Bool := v &&& r.mask = r.matchWord

/-- The mnemonic of a command (30_encoding.md R93, R97). -/
def Instr.mnemonic (i : Instr) : String :=
  match i with
  | .bxor => "BXOR"
  | .badd => "BADD"
  | .brf => "BRF"
  | .bsplit => "BSPLIT"
  | .bjoin => "BJOIN"
  | .expand => "EXPAND"
  | .setpos _ => "SETPOS"
  | .getkey _ => "GETKEY"
  | .nextkey => "NEXTKEY"
  | .sbox _ => "SBOX"
  | .initf => "INITF"
  | .inits => "INITS"
  | .enc _ => "ENC"
  | .dec _ => "DEC"
  | .join => "JOIN"
  | .nop => "NOP"
  | .clrerr => "CLRERR"

/-- The instruction the decoder reads from an instruction of `nbits` bits whose bits are `w`, the bits
above `nbits` being 0. Every command is one 32-bit word (30_encoding.md R90), written by one access,
so no byte order enters. -/
def decodeTableWord (nbits w : Nat) : Option Instr :=
  match decode (BitVec.ofNat 32 (w % 2 ^ nbits)) with
  | .ok i => some i
  | .error _ => none

end Sys2Proof
end

