-- ==== Sys2Proof/Config.lean ====
section
/-!
DEFINITION. The model's parameters and free values. Each is opaque: no proof can learn a value of it.
-/

namespace Sys2Proof

/-- RF_EXT, the function of the external round-function port: total and deterministic, nothing else
assumed (00_scope.md R8, 40_block_arith.md R121). First argument the block, second the round key.
Log entry 3. -/
opaque Config.rfExt : Block128 → Block128 → Block128

/-- The value the n-th read other than STATUS made while BUSY = 1 returns: any 32-bit value, drawn
freshly for each read (20_memory.md R71). Log entry 4. -/
opaque Config.busyRead : Nat → Word

/-- The key of round r where 42_feistel.md R198 names no key; no run reaches such a state.
Log entry 8. -/
opaque Config.unnamedKey : Nat → Block128

end Sys2Proof
end

