-- ==== Sys2Proof/Machine/State.lean ====
section
/-!
DEFINITION. The state of one RIVERCAT-CORE instance (10_state.md R20) with the agents and inputs
outside it, the reasons a step can stop, and the state after reset (70_reset_and_hazards.md R281).
-/

namespace Sys2Proof.Machine

open Sys2Proof

/-- CTRL.OORPOL (10_state.md R22): 0 = WRAP, 1 = FAULT. -/
inductive IndexPolicy where
  | wrap
  | fault
  deriving DecidableEq, Repr

/-- CTRL.RFSEL (10_state.md R22): 0 = ADD8, 1 = EXT. -/
inductive RoundFn where
  | add8
  | ext
  deriving DecidableEq, Repr

/-- STATUS.STATE (10_state.md R23, R33): 0 = IDLE, 1 = READY, 2 = FINAL; 3 is never produced. -/
inductive EngineState where
  | idle
  | ready
  | final
  deriving DecidableEq, Repr

/-- STATUS.VARIANT (10_state.md R23, R33): 0 = NONE, 1 = FIXED, 2 = SCHED; 3 is never produced. -/
inductive Variant where
  | none
  | fixed
  | sched
  deriving DecidableEq, Repr

/-- STATUS.LASTOP (10_state.md R23, R33): 0 = NONE, 1 = ENC, 2 = DEC; 3 is never produced. -/
inductive LastOp where
  | none
  | enc
  | dec
  deriving DecidableEq, Repr

/-- STATUS.ECODE (60_exceptions.md R240). Codes 7 to 15 are never produced. These are the block's own
faults: raising one gives a next state (R241), it does not stop the machine. -/
inductive FaultCode where
  | none
  | eillegal
  | eseq
  | evariant
  | erounds
  | enokey
  | eindex
  deriving DecidableEq, Repr

/-- One step of the host's program (30_encoding.md R98). -/
inductive HostOp where
  /-- `rd A`: MemRead(A, 4) (20_memory.md R60). -/
  | rd (a : WindowAddr)
  /-- `wr A, V`: MemWrite(A, 4, V) (20_memory.md R60). -/
  | wr (a : WindowAddr) (v : Word)
  /-- `WAIT`: repeat a read of STATUS until BUSY = 0 (30_encoding.md R98). -/
  | wait
  deriving DecidableEq, Repr

/-- Who takes the next atomic step (00_scope.md R13; log entry 1). -/
inductive Turn where
  /-- The ENGINE executes the pending command, if there is one. -/
  | engine
  /-- The HOST performs its next access, if it has one. -/
  | host
  /-- The reset input is asserted (70_reset_and_hazards.md R280). -/
  | rstAssert
  /-- The reset input is released. -/
  | rstRelease
  deriving DecidableEq, Repr

/-- The reasons the machine stops with a fault: none. A fault of the block is sticky state, and the
block goes on (60_exceptions.md R241); no access faults (20_memory.md R61). -/
inductive Fault
  deriving DecidableEq, Repr

/-- The reasons a step has no meaning. -/
inductive Refusal where
  /-- Raised by exec's arm of an instruction without a meaning; no arm of this model raises it. Safe. -/
  | notModelled (mnemonic : String)
  /-- Raised by a host access made while the reset input is asserted: the spec says such accesses are
  refused (70_reset_and_hazards.md R280). Safe. -/
  | hostAccessInReset
  deriving DecidableEq, Repr

/-- The machine: the registers of 10_state.md R20, then the model's own fields. -/
structure State where
  /-- CTRL.OORPOL, bit 0 (10_state.md R22). -/
  oorpol : IndexPolicy
  /-- CTRL.RFSEL, bit 1 (10_state.md R22). -/
  rfsel : RoundFn
  /-- CTRL.ERRIE, bit 2 (10_state.md R22). -/
  errie : Bool
  /-- ERRCMD (10_state.md R24). -/
  errcmd : Word
  /-- ROOTKEY (10_state.md R25). -/
  rootkey : Block128
  /-- FKEY (10_state.md R25). -/
  fkey : Block128
  /-- BLK (10_state.md R25). -/
  blk : Block256
  /-- LEFT (10_state.md R26). -/
  left : Block128
  /-- RIGHT (10_state.md R26). -/
  right : Block128
  /-- OPA (10_state.md R27). -/
  opa : Block128
  /-- OPB (10_state.md R27). -/
  opb : Block128
  /-- RES (10_state.md R27). -/
  res : Block128
  /-- RKOUT (10_state.md R28). -/
  rkout : Block128
  /-- BYTEOUT (10_state.md R28). -/
  byteout : Byte
  /-- W[0..43] (10_state.md R31). -/
  w : KeyTable
  /-- CURSOR, 0 to 10 (10_state.md R29). -/
  cursor : KeyNumber
  /-- KEYVALID (10_state.md R30). -/
  keyvalid : Bool
  /-- STATE (10_state.md R33). -/
  engine : EngineState
  /-- VARIANT (10_state.md R33). -/
  variant : Variant
  /-- LASTOP (10_state.md R33). -/
  lastop : LastOp
  /-- BUSY (10_state.md R34). -/
  busy : Bool
  /-- PEND (10_state.md R34). -/
  pend : Word
  /-- ERR (10_state.md R35). -/
  err : Bool
  /-- ECODE (10_state.md R35). -/
  ecode : FaultCode
  /-- OVR (10_state.md R35). -/
  ovr : Bool
  /-- The model's own: the level of the reset input (70_reset_and_hazards.md R280; log entry 5). -/
  rst : Bool
  /-- The model's own: the interleaving still to come (00_scope.md R13; log entry 1). -/
  schedule : List Turn
  /-- The model's own: the host's remaining program (30_encoding.md R98; log entry 2). -/
  host : List HostOp
  /-- The model's own: what the host's reads returned, newest first (log entry 2). -/
  reads : List Word
  /-- The model's own: how many free read values were drawn (20_memory.md R71; log entry 4). -/
  draws : Nat
  deriving DecidableEq, Repr

/-- The machine right after reset (70_reset_and_hazards.md R281). Every register's value is the
spec's; the five fields of the model's own are log entries 5 and 15. -/
def State.reset : State where
  oorpol := .wrap
  rfsel := .add8
  errie := false
  errcmd := 0#32
  rootkey := zeroBlock 16
  fkey := zeroBlock 16
  blk := zeroBlock 32
  left := zeroBlock 16
  right := zeroBlock 16
  opa := zeroBlock 16
  opb := zeroBlock 16
  res := zeroBlock 16
  rkout := zeroBlock 16
  byteout := 0#8
  w := Vector.replicate 44 0#32
  cursor := 0
  keyvalid := false
  engine := .idle
  variant := .none
  lastop := .none
  busy := false
  pend := 0#32
  err := false
  ecode := .none
  ovr := false
  rst := false
  schedule := []
  host := []
  reads := []
  draws := 0

end Sys2Proof.Machine
end

