-- ==== Sys2Proof/Machine/Operands.lean ====
section
/-!
DEFINITION. Words and bytes, the packing of blocks into host words, and the host window map
(00_scope.md R11, 20_memory.md R60 to R63).
-/

namespace Sys2Proof.Machine

open Sys2Proof

/-- byte_k(w) = w[8k+7:8k] (00_scope.md R11). -/
def byteOf (k : Nat) (v : Word) : Byte := v.extractLsb' (8 * k) 8

/-- Big-endian assembly: the first byte is most significant (00_scope.md R11). -/
def be32 (b0 b1 b2 b3 : Byte) : Word :=
  BitVec.ofNat 32 (b0.toNat * 2 ^ 24 + b1.toNat * 2 ^ 16 + b2.toNat * 2 ^ 8 + b3.toNat)

/-- Little-endian assembly: the first byte is least significant (00_scope.md R11). -/
def le32 (b0 b1 b2 b3 : Byte) : Word :=
  BitVec.ofNat 32 (b0.toNat + b1.toNat * 2 ^ 8 + b2.toNat * 2 ^ 16 + b3.toNat * 2 ^ 24)

/-- rotl32(w, s) (00_scope.md R11). -/
def rotl32 (v : Word) (s : Nat) : Word := (v <<< s) ||| (v >>> (32 - s))

/-- Byte j of a block. -/
def blockByte {n : Nat} (x : Vector Byte n) (j : Nat) : Byte := x.toList.getD j 0#8

/-- Word k of a block in the window (20_memory.md R62). -/
def blockWord {n : Nat} (x : Vector Byte n) (k : Nat) : Word :=
  le32 (blockByte x (4 * k)) (blockByte x (4 * k + 1)) (blockByte x (4 * k + 2))
    (blockByte x (4 * k + 3))

/-- A write of word k sets exactly bytes 4k to 4k+3 (20_memory.md R62). -/
def setBlockWord {n : Nat} (x : Vector Byte n) (k : Nat) (v : Word) : Vector Byte n :=
  Vector.ofFn fun j : Fin n => if j.val / 4 = k then byteOf (j.val % 4) v else x[j]

/-- The rows of the window map (20_memory.md R63), with the word number inside a block or table. -/
inductive WindowReg where
  | cmd
  | status
  | errcmd
  | ctrl
  | rootkey (k : Fin 4)
  | fkey (k : Fin 4)
  | blk (k : Fin 8)
  | left (k : Fin 4)
  | right (k : Fin 4)
  | opa (k : Fin 4)
  | opb (k : Fin 4)
  | res (k : Fin 4)
  | rkout (k : Fin 4)
  | byteout
  | w (i : Fin 44)
  | reserved
  deriving DecidableEq, Repr

/-- The word index: address bits [8:2]; bits [1:0] are ignored (20_memory.md R60, R61). -/
def wordIndex (a : WindowAddr) : Nat := (a.extractLsb' 2 7).toNat

/-- The window map by word index (20_memory.md R63): the index is the map's address divided by 4. -/
def windowReg (n : Nat) : WindowReg :=
  if n = 0 then .cmd
  else if n = 1 then .status
  else if n = 2 then .errcmd
  else if n = 3 then .ctrl
  else if n < 8 then .rootkey (Fin.ofNat 4 (n - 4))
  else if n < 12 then .fkey (Fin.ofNat 4 (n - 8))
  else if n < 20 then .blk (Fin.ofNat 8 (n - 12))
  else if n < 24 then .left (Fin.ofNat 4 (n - 20))
  else if n < 28 then .right (Fin.ofNat 4 (n - 24))
  else if n < 32 then .opa (Fin.ofNat 4 (n - 28))
  else if n < 36 then .opb (Fin.ofNat 4 (n - 32))
  else if n < 40 then .res (Fin.ofNat 4 (n - 36))
  else if n < 44 then .rkout (Fin.ofNat 4 (n - 40))
  else if n = 44 then .byteout
  else if n < 64 then .reserved
  else if n < 108 then .w (Fin.ofNat 44 (n - 64))
  else .reserved

/-- The row of the window map that an address selects (20_memory.md R60, R63). -/
def addressed (a : WindowAddr) : WindowReg := windowReg (wordIndex a)

end Sys2Proof.Machine
end

