-- ==== Sys2Proof/Machine/Ops.lean ====
section
/-!
DEFINITION. The operations the meanings share: the block functions and the round function
(40_block_arith.md R120 to R122), how a command ends (20_memory.md R66), raising a fault and the
return from one (60_exceptions.md R241, R247), and the reset event (70_reset_and_hazards.md R280).
-/

namespace Sys2Proof.Machine

open Sys2Proof

/-- Bytewise XOR (40_block_arith.md R120). -/
def xor128 (a b : Block128) : Block128 := Vector.ofFn fun j : Fin 16 => a[j] ^^^ b[j]

/-- Bytewise addition mod 256, without carry between bytes (40_block_arith.md R120). -/
def add8 (a b : Block128) : Block128 := Vector.ofFn fun j : Fin 16 => a[j] + b[j]

/-- The round function RF(x, k) that CTRL.RFSEL selects (40_block_arith.md R121). -/
def roundFunction (f : RoundFn) (x k : Block128) : Block128 :=
  match f with
  | .add8 => add8 x k
  | .ext => Config.rfExt x k

/-- The left half: bytes 0 to 15 (40_block_arith.md R122). -/
def splitLeft (y : Block256) : Block128 := Vector.ofFn fun j : Fin 16 => y[j.val]

/-- The right half: bytes 16 to 31 (40_block_arith.md R122). -/
def splitRight (y : Block256) : Block128 := Vector.ofFn fun j : Fin 16 => y[16 + j.val]

/-- Join of a left and a right half (40_block_arith.md R122). -/
def joinBlocks (l r : Block128) : Block256 :=
  Vector.ofFn fun j : Fin 32 => if h : j.val < 16 then l[j.val] else r[j.val - 16]

/-- The end of every command: BUSY <- 0 (20_memory.md R66). -/
def complete (s : State) : State := { s with busy := false }

/-- Raising a fault (60_exceptions.md R241): ERR, ECODE and ERRCMD are set, BUSY <- 0, and no other
state changes. There is no vector and no mode (R243). -/
def raiseFault (code : FaultCode) (s : State) : State :=
  { s with err := true, ecode := code, errcmd := s.pend, busy := false }

/-- The return from a fault (43_control.md R231, 60_exceptions.md R247): ERR, ECODE and OVR are
cleared, ERRCMD is kept. -/
def clearFault (s : State) : State :=
  { s with err := false, ecode := .none, ovr := false }

/-- The reset event (70_reset_and_hazards.md R280): every register takes its reset value in one step
and a pending command is abandoned. The host's side and the interleaving are not the block's state;
the input stays asserted until released (log entry 5). -/
def assertReset (s : State) : State :=
  { State.reset with
    rst := true, schedule := s.schedule, host := s.host, reads := s.reads, draws := s.draws }

/-- The release of the reset input (70_reset_and_hazards.md R280; log entry 5). -/
def releaseReset (s : State) : State := { s with rst := false }

end Sys2Proof.Machine
end

