-- ==== Sys2Proof/Machine/BlockArith.lean ====
section
/-!
DEFINITION. The block arithmetic unit: BXOR, BADD, BRF, BSPLIT, BJOIN (40_block_arith.md).
-/

namespace Sys2Proof.Machine

open Sys2Proof

/-- BXOR (40_block_arith.md R123): RES <- xor128(OPA, OPB). -/
def execBxor (s : State) : Host.Outcome State Fault Refusal :=
  .next (complete { s with res := xor128 s.opa s.opb })

/-- BADD (40_block_arith.md R124): RES <- add8(OPA, OPB). -/
def execBadd (s : State) : Host.Outcome State Fault Refusal :=
  .next (complete { s with res := add8 s.opa s.opb })

/-- BRF (40_block_arith.md R125): RES <- RF(OPA, OPB). -/
def execBrf (s : State) : Host.Outcome State Fault Refusal :=
  .next (complete { s with res := roundFunction s.rfsel s.opa s.opb })

/-- BSPLIT (40_block_arith.md R126): (OPA, OPB) <- split(BLK). -/
def execBsplit (s : State) : Host.Outcome State Fault Refusal :=
  .next (complete { s with opa := splitLeft s.blk, opb := splitRight s.blk })

/-- BJOIN (40_block_arith.md R127): BLK <- join(OPA, OPB). -/
def execBjoin (s : State) : Host.Outcome State Fault Refusal :=
  .next (complete { s with blk := joinBlocks s.opa s.opb })

end Sys2Proof.Machine
end

