-- ==== Sys2Proof/Machine/Control.lean ====
section
/-!
DEFINITION. The control commands: NOP and CLRERR (43_control.md).
-/

namespace Sys2Proof.Machine

open Sys2Proof

/-- NOP (43_control.md R230): the only effect is the completion. -/
def execNop (s : State) : Host.Outcome State Fault Refusal :=
  .next (complete s)

/-- CLRERR (43_control.md R231): ERR, ECODE and OVR are cleared. -/
def execClrerr (s : State) : Host.Outcome State Fault Refusal :=
  .next (complete (clearFault s))

end Sys2Proof.Machine
end

