-- ==== Sys2Proof/Machine/KeySchedule.lean ====
section
/-!
DEFINITION. The pure functions of the key expansion and the scheduler's policies
(41_key_schedule.md R150 to R157).
-/

namespace Sys2Proof.Machine

open Sys2Proof

/-- RotWord (41_key_schedule.md R150). -/
def rotWord (v : Word) : Word := rotl32 v 8

/-- SubWord (41_key_schedule.md R150). -/
def subWord (v : Word) : Word :=
  be32 (sbox (byteOf 3 v)) (sbox (byteOf 2 v)) (sbox (byteOf 1 v)) (sbox (byteOf 0 v))

/-- The `temp` of word i, from word i-1 (41_key_schedule.md R153). -/
def expansionTemp (i : Nat) (prev : Word) : Word :=
  if i % 4 = 0 then subWord (rotWord prev) ^^^ ((rcon (i / 4 - 1)).zeroExtend 32 <<< 24) else prev

/-- Word i, from the words before it (41_key_schedule.md R153). -/
def nextWord (ws : List Word) : Word :=
  ws.getD (ws.length - 4) 0#32 ^^^ expansionTemp ws.length (ws.getD (ws.length - 1) 0#32)

/-- Word i of the root key, i in 0..3, big-endian (41_key_schedule.md R153, 20_memory.md R65). -/
def rootWord (k : Block128) (i : Nat) : Word :=
  be32 (blockByte k (4 * i)) (blockByte k (4 * i + 1)) (blockByte k (4 * i + 2))
    (blockByte k (4 * i + 3))

/-- The first 4 + m words of the expansion (41_key_schedule.md R153). -/
def expansionWords (k : Block128) (m : Nat) : List Word :=
  match m with
  | 0 => [rootWord k 0, rootWord k 1, rootWord k 2, rootWord k 3]
  | m + 1 => expansionWords k m ++ [nextWord (expansionWords k m)]

/-- KeyExpansion(K), all 44 words (41_key_schedule.md R153). -/
def keyExpansion (k : Block128) : KeyTable :=
  Vector.ofFn fun i : Fin 44 => (expansionWords k 40).getD i.val 0#32

/-- RoundKey(r): words 4r to 4r+3, big-endian (41_key_schedule.md R155). -/
def roundKey (w : KeyTable) (r : KeyNumber) : Block128 :=
  Vector.ofFn fun m : Fin 16 => byteOf (3 - m.val % 4) (w[4 * r.val + m.val / 4])

/-- KeyIndex(i) under OORPOL; none where it raises EINDEX (41_key_schedule.md R156). -/
def keyIndex (p : IndexPolicy) (i : Nat) : Option KeyNumber :=
  match p with
  | .wrap => some (Fin.ofNat 11 i)
  | .fault => if i ≤ 10 then some (Fin.ofNat 11 i) else none

/-- NextCursor(c) (41_key_schedule.md R157). -/
def nextCursor (c : KeyNumber) : KeyNumber := if c.val = 10 then 0 else Fin.ofNat 11 (c.val + 1)

end Sys2Proof.Machine
end

