-- ==== Sys2Proof/Machine/Feistel.lean ====
section
/-!
DEFINITION. The Feistel round engine: the round primitives (42_feistel.md R196, R198, R199) and INITF,
INITS, ENC, DEC, JOIN (R190 to R195). Checks stand in the order of 60_exceptions.md R245.
-/

namespace Sys2Proof.Machine

open Sys2Proof

/-- EncRound(L, R, k) (42_feistel.md R196). -/
def encRound (f : RoundFn) (k : Block128) (p : Block128 × Block128) : Block128 × Block128 :=
  (xor128 p.2 (roundFunction f p.1 k), p.1)

/-- DecRound(L, R, k) (42_feistel.md R196). -/
def decRound (f : RoundFn) (k : Block128) (p : Block128 × Block128) : Block128 × Block128 :=
  (p.2, xor128 p.1 (roundFunction f p.2 k))

/-- EncRound for rounds 0 to n-1 in rising order, the last one like the others (42_feistel.md R193,
R199). -/
def encRounds (f : RoundFn) (key : Nat → Block128) (n : Nat) (p : Block128 × Block128) :
    Block128 × Block128 :=
  match n with
  | 0 => p
  | n + 1 => encRound f (key n) (encRounds f key n p)

/-- DecRound for rounds n-1 down to 0 (42_feistel.md R194, R199). -/
def decRounds (f : RoundFn) (key : Nat → Block128) (n : Nat) (p : Block128 × Block128) :
    Block128 × Block128 :=
  match n with
  | 0 => p
  | n + 1 => decRounds f key n (decRound f (key n) p)

/-- EngineKey(r) (42_feistel.md R198): FKEY on the fixed variant, RoundKey(KeyIndex(r)) on the
scheduled one. Where the rule names no key the value is free (log entry 8). -/
def engineKey (s : State) (r : Nat) : Block128 :=
  match s.variant with
  | .fixed => s.fkey
  | .none => Config.unnamedKey r
  | .sched =>
    match keyIndex s.oorpol r with
    | some k => roundKey s.w k
    | none => Config.unnamedKey r

/-- INITF (42_feistel.md R191): (LEFT, RIGHT) <- split(BLK); READY, FIXED, NONE. -/
def execInitf (s : State) : Host.Outcome State Fault Refusal :=
  .next (complete { s with
    left := splitLeft s.blk, right := splitRight s.blk
    engine := .ready, variant := .fixed, lastop := .none })

/-- INITS (42_feistel.md R192): ENOKEY without a scheduler, else (LEFT, RIGHT) <- split(BLK); READY,
SCHED, NONE. CURSOR is not changed. -/
def execInits (s : State) : Host.Outcome State Fault Refusal :=
  if s.keyvalid = false then .next (raiseFault .enokey s)
  else .next (complete { s with
    left := splitLeft s.blk, right := splitRight s.blk
    engine := .ready, variant := .sched, lastop := .none })

/-- ENC n without its checks (42_feistel.md R193): n rounds, and CURSOR <- 0 on the scheduled
variant. -/
def encPass (n : Nat) (s : State) : State :=
  { s with
    left := (encRounds s.rfsel (engineKey s) n (s.left, s.right)).1
    right := (encRounds s.rfsel (engineKey s) n (s.left, s.right)).2
    cursor := if s.variant = .sched then 0 else s.cursor
    engine := .final, lastop := .enc }

/-- ENC n (42_feistel.md R193): ESEQ, EROUNDS, EINDEX, then the pass. -/
def execEnc (n : Nat) (s : State) : Host.Outcome State Fault Refusal :=
  if s.engine ≠ .ready then .next (raiseFault .eseq s)
  else if n = 0 then .next (raiseFault .erounds s)
  else if s.variant = .sched ∧ s.oorpol = .fault ∧ n > 11 then .next (raiseFault .eindex s)
  else .next (complete (encPass n s))

/-- DEC n without its checks (42_feistel.md R194): n rounds in falling order, CURSOR <- c. -/
def decPass (n : Nat) (c : KeyNumber) (s : State) : State :=
  { s with
    left := (decRounds s.rfsel (engineKey s) n (s.left, s.right)).1
    right := (decRounds s.rfsel (engineKey s) n (s.left, s.right)).2
    cursor := c
    engine := .final, lastop := .dec }

/-- A DEC is allowed: scheduled variant, READY or FINAL after ENC (42_feistel.md R190). -/
def decAllowed (s : State) : Bool :=
  s.variant = .sched ∧ (s.engine = .ready ∨ (s.engine = .final ∧ s.lastop = .enc))

/-- DEC n (42_feistel.md R194, R190): ESEQ in IDLE, EVARIANT on the fixed variant, ESEQ where the state
does not allow it, EROUNDS, EINDEX, then the pass with CURSOR <- KeyIndex(n - 1). -/
def execDec (n : Nat) (s : State) : Host.Outcome State Fault Refusal :=
  if s.engine = .idle then .next (raiseFault .eseq s)
  else if s.variant = .fixed then .next (raiseFault .evariant s)
  else if decAllowed s = false then .next (raiseFault .eseq s)
  else if n = 0 then .next (raiseFault .erounds s)
  else if s.oorpol = .fault ∧ n > 11 then .next (raiseFault .eindex s)
  else
    match keyIndex s.oorpol (n - 1) with
    | none => .next (raiseFault .eindex s)
    | some c => .next (complete (decPass n c s))

/-- JOIN (42_feistel.md R195): BLK <- join(LEFT, RIGHT), in every engine state. -/
def execJoin (s : State) : Host.Outcome State Fault Refusal :=
  .next (complete { s with blk := joinBlocks s.left s.right })

end Sys2Proof.Machine
end

