-- ==== Sys2Proof/Machine/Scheduler.lean ====
section
/-!
DEFINITION. The key scheduler: EXPAND, SETPOS, GETKEY, NEXTKEY, SBOX (41_key_schedule.md). Checks stand
in the order of 60_exceptions.md R245.
-/

namespace Sys2Proof.Machine

open Sys2Proof

/-- EXPAND (41_key_schedule.md R160): W <- KeyExpansion(ROOTKEY), KEYVALID <- 1, CURSOR <- 0. -/
def execExpand (s : State) : Host.Outcome State Fault Refusal :=
  .next (complete { s with w := keyExpansion s.rootkey, keyvalid := true, cursor := 0 })

/-- SETPOS i (41_key_schedule.md R161): CURSOR <- KeyIndex(i), after ENOKEY and EINDEX. -/
def execSetpos (i : Nat) (s : State) : Host.Outcome State Fault Refusal :=
  if s.keyvalid = false then .next (raiseFault .enokey s)
  else
    match keyIndex s.oorpol i with
    | none => .next (raiseFault .eindex s)
    | some c => .next (complete { s with cursor := c })

/-- GETKEY i (41_key_schedule.md R162): RKOUT <- RoundKey(KeyIndex(i)), after ENOKEY and EINDEX. CURSOR
is not changed (R163). -/
def execGetkey (i : Nat) (s : State) : Host.Outcome State Fault Refusal :=
  if s.keyvalid = false then .next (raiseFault .enokey s)
  else
    match keyIndex s.oorpol i with
    | none => .next (raiseFault .eindex s)
    | some r => .next (complete { s with rkout := roundKey s.w r })

/-- NEXTKEY (41_key_schedule.md R164): (RKOUT, CURSOR) <- (RoundKey(CURSOR), NextCursor(CURSOR)), after
ENOKEY. -/
def execNextkey (s : State) : Host.Outcome State Fault Refusal :=
  if s.keyvalid = false then .next (raiseFault .enokey s)
  else .next (complete { s with rkout := roundKey s.w s.cursor, cursor := nextCursor s.cursor })

/-- SBOX b (41_key_schedule.md R165): BYTEOUT <- SBOX[b]. KEYVALID is not needed. -/
def execSbox (b : Nat) (s : State) : Host.Outcome State Fault Refusal :=
  .next (complete { s with byteout := sbox (BitVec.ofNat 8 b) })

end Sys2Proof.Machine
end

