-- ==== Sys2Proof/Machine/Dispatch.lean ====
section
/-!
DEFINITION. The meaning of each command, one arm per constructor.
-/

namespace Sys2Proof.Machine

open Sys2Proof

/-- The ENGINE's execution of one command as one atomic transition (20_memory.md R66, 30_encoding.md R92). -/
def exec (i : Instr) (s : State) : Host.Outcome State Fault Refusal :=
  match i with
  | .bxor => Sys2Proof.Machine.execBxor s
  | .badd => Sys2Proof.Machine.execBadd s
  | .brf => Sys2Proof.Machine.execBrf s
  | .bsplit => Sys2Proof.Machine.execBsplit s
  | .bjoin => Sys2Proof.Machine.execBjoin s
  | .expand => Sys2Proof.Machine.execExpand s
  | .setpos r => Sys2Proof.Machine.execSetpos r s
  | .getkey r => Sys2Proof.Machine.execGetkey r s
  | .nextkey => Sys2Proof.Machine.execNextkey s
  | .sbox b => Sys2Proof.Machine.execSbox b s
  | .initf => Sys2Proof.Machine.execInitf s
  | .inits => Sys2Proof.Machine.execInits s
  | .enc n => Sys2Proof.Machine.execEnc n s
  | .dec n => Sys2Proof.Machine.execDec n s
  | .join => Sys2Proof.Machine.execJoin s
  | .nop => Sys2Proof.Machine.execNop s
  | .clrerr => Sys2Proof.Machine.execClrerr s

end Sys2Proof.Machine
end

