-- ==== Sys2Proof/Machine/Flags.lean ====
section
/-!
DEFINITION. The field codes of CTRL and STATUS, the two words as the host reads them, the write of
CTRL, and the error output (10_state.md R22, R23, 60_exceptions.md R240, R250).
-/

namespace Sys2Proof.Machine

open Sys2Proof

/-- CTRL.OORPOL as a value (10_state.md R22). -/
def indexPolicyCode (p : IndexPolicy) : Nat :=
  match p with
  | .wrap => 0
  | .fault => 1

/-- CTRL.RFSEL as a value (10_state.md R22). -/
def roundFnCode (f : RoundFn) : Nat :=
  match f with
  | .add8 => 0
  | .ext => 1

/-- STATUS.STATE as a value (10_state.md R23). -/
def engineStateCode (e : EngineState) : Nat :=
  match e with
  | .idle => 0
  | .ready => 1
  | .final => 2

/-- STATUS.VARIANT as a value (10_state.md R23). -/
def variantCode (v : Variant) : Nat :=
  match v with
  | .none => 0
  | .fixed => 1
  | .sched => 2

/-- STATUS.LASTOP as a value (10_state.md R23). -/
def lastOpCode (o : LastOp) : Nat :=
  match o with
  | .none => 0
  | .enc => 1
  | .dec => 2

/-- STATUS.ECODE as a value (60_exceptions.md R240). -/
def faultCodeValue (c : FaultCode) : Nat :=
  match c with
  | .none => 0
  | .eillegal => 1
  | .eseq => 2
  | .evariant => 3
  | .erounds => 4
  | .enokey => 5
  | .eindex => 6

/-- STATUS as the host reads it: each field at its lowest bit, reserved bits 0 (10_state.md R23). -/
def statusWord (s : State) : Word :=
  BitVec.ofNat 32
    (s.busy.toNat + s.err.toNat * 2 ^ 1 + s.ovr.toNat * 2 ^ 2 + s.keyvalid.toNat * 2 ^ 3 +
      engineStateCode s.engine * 2 ^ 4 + variantCode s.variant * 2 ^ 6 +
      lastOpCode s.lastop * 2 ^ 8 + s.cursor.val * 2 ^ 12 + faultCodeValue s.ecode * 2 ^ 16)

/-- CTRL as the host reads it: bits [31:3] read 0 (10_state.md R22). -/
def ctrlWord (s : State) : Word :=
  BitVec.ofNat 32
    (indexPolicyCode s.oorpol + roundFnCode s.rfsel * 2 ^ 1 + s.errie.toNat * 2 ^ 2)

/-- A write of CTRL: bits [31:3] are ignored (10_state.md R22). -/
def writeCtrl (v : Word) (s : State) : State :=
  { s with
    oorpol := if v.getLsbD 0 then .fault else .wrap
    rfsel := if v.getLsbD 1 then .ext else .add8
    errie := v.getLsbD 2 }

/-- The error output: err_o = STATUS.ERR AND CTRL.ERRIE (60_exceptions.md R250). -/
def errOut (s : State) : Bool := s.err && s.errie

end Sys2Proof.Machine
end

