-- ==== Sys2Proof/Machine/HostPort.lean ====
section
/-!
DEFINITION. The host's side of the window: MemRead and MemWrite (20_memory.md R60 to R71) and the
host's turn.
-/

namespace Sys2Proof.Machine

open Sys2Proof

/-- The present value of a row of the window map (20_memory.md R62 to R64, R68, R69). -/
def readReg (r : WindowReg) (s : State) : Word :=
  match r with
  | .cmd => 0#32
  | .status => statusWord s
  | .errcmd => s.errcmd
  | .ctrl => ctrlWord s
  | .rootkey k => blockWord s.rootkey k.val
  | .fkey k => blockWord s.fkey k.val
  | .blk k => blockWord s.blk k.val
  | .left k => blockWord s.left k.val
  | .right k => blockWord s.right k.val
  | .opa k => blockWord s.opa k.val
  | .opb k => blockWord s.opb k.val
  | .res k => blockWord s.res k.val
  | .rkout k => blockWord s.rkout k.val
  | .byteout => s.byteout.zeroExtend 32
  | .w i => s.w[i]
  | .reserved => 0#32

/-- The only command word accepted while ERR = 1 (20_memory.md R66): CLRERR's. -/
def clrerrWord : Word := 0x01000000#32

/-- A write to CMD while BUSY = 0 (20_memory.md R66, 60_exceptions.md R244). -/
def issueCommand (v : Word) (s : State) : State :=
  if s.err = true ∧ v ≠ clrerrWord then s else { s with pend := v, busy := true }

/-- A write while BUSY = 0 (20_memory.md R64, R66, R67): read-only and reserved words ignore it. -/
def writeReg (r : WindowReg) (v : Word) (s : State) : State :=
  match r with
  | .cmd => issueCommand v s
  | .ctrl => writeCtrl v s
  | .rootkey k => { s with rootkey := setBlockWord s.rootkey k.val v }
  | .fkey k => { s with fkey := setBlockWord s.fkey k.val v }
  | .blk k => { s with blk := setBlockWord s.blk k.val v }
  | .opa k => { s with opa := setBlockWord s.opa k.val v }
  | .opb k => { s with opb := setBlockWord s.opb k.val v }
  | .status | .errcmd | .left _ | .right _ | .res _ | .rkout _ | .byteout | .w _ | .reserved => s

/-- MemWrite(a, 4, v) (20_memory.md R60): while BUSY = 1 every write is discarded and sets OVR (R70). -/
def memWrite (a : WindowAddr) (v : Word) (s : State) : State :=
  if s.busy then { s with ovr := true } else writeReg (addressed a) v s

/-- The value MemRead(a, 4) returns (20_memory.md R60, R68, R71). While BUSY = 1 it is exact for STATUS
and a free value for every other address (log entry 4). -/
def memReadValue (a : WindowAddr) (s : State) : Word :=
  if s.busy = true ∧ addressed a ≠ .status then Config.busyRead s.draws
  else readReg (addressed a) s

/-- MemRead(a, 4) as a step of the HOST: no register changes (20_memory.md R60); the host has the value,
and a free value once drawn is not drawn again (R71). -/
def memRead (a : WindowAddr) (s : State) : State :=
  { s with
    reads := memReadValue a s :: s.reads
    draws := if s.busy = true ∧ addressed a ≠ .status then s.draws + 1 else s.draws }

/-- The window address of CMD (20_memory.md R63). -/
def cmdAddr : WindowAddr := 0x000#9

/-- The window address of STATUS (20_memory.md R63). -/
def statusAddr : WindowAddr := 0x004#9

/-- The HOST performs its next access (00_scope.md R13). A WAIT reads STATUS and stays while BUSY = 1
(30_encoding.md R98; log entry 10). An access while reset is asserted is refused
(70_reset_and_hazards.md R280). A host with nothing left to do changes nothing (log entry 14). -/
def hostTurn (s : State) : Host.Outcome State Fault Refusal :=
  match s.host with
  | [] => .next s
  | op :: rest =>
    if s.rst then .refused .hostAccessInReset
    else
      match op with
      | .rd a => .next (memRead a { s with host := rest })
      | .wr a v => .next (memWrite a v { s with host := rest })
      | .wait => .next (memRead statusAddr { s with host := if s.busy then s.host else rest })

end Sys2Proof.Machine
end

