-- ==== Sys2Proof/Machine/Engine.lean ====
section
/-!
DEFINITION. The ENGINE's turn (30_encoding.md R92) and the turn of any agent (00_scope.md R13).
-/

namespace Sys2Proof.Machine

open Sys2Proof

/-- The ENGINE executes PEND (30_encoding.md R92): a word that matches no row faults EILLEGAL, a
command has its meaning. -/
def runPending (s : State) : Host.Outcome State Fault Refusal :=
  match decode s.pend with
  | .error _ => .next (raiseFault .eillegal s)
  | .ok i => exec i s

/-- The ENGINE's turn (00_scope.md R13): it executes the pending command if there is one. While reset is
asserted nothing executes (70_reset_and_hazards.md R280). -/
def engineTurn (s : State) : Host.Outcome State Fault Refusal :=
  if s.rst = false ∧ s.busy = true then runPending s else .next s

/-- One atomic step of the named agent or input (00_scope.md R13, 70_reset_and_hazards.md R280). -/
def takeTurn (t : Turn) (s : State) : Host.Outcome State Fault Refusal :=
  match t with
  | .engine => engineTurn s
  | .host => hostTurn s
  | .rstAssert => .next (assertReset s)
  | .rstRelease => .next (releaseReset s)

/-- Who moves when the interleaving names nobody: a pending command completes (the fairness of
00_scope.md R13), else the host goes on; under reset nobody acts (log entry 1). -/
def defaultTurn (s : State) : Host.Outcome State Fault Refusal :=
  if s.rst then .next s else if s.busy then engineTurn s else hostTurn s

end Sys2Proof.Machine
end

