-- ==== Sys2Proof/Machine/Step.lean ====
section
/-!
DEFINITION. One atomic step of the machine (00_scope.md R13), and the placing of a command where the
next step runs it.
-/

namespace Sys2Proof.Machine

open Sys2Proof

/-- One atomic step: of the agent the interleaving names next, or else of the default one
(00_scope.md R13, 20_memory.md R72; log entry 1). -/
def step (s : State) : Host.Outcome State Fault Refusal :=
  match s.schedule with
  | [] => defaultTurn s
  | t :: rest => takeTurn t { s with schedule := rest }

/-- s with the command word pending and the ENGINE next to move, reset released: the effect of an
accepted write to CMD, with the bits above `nbits` zero (20_memory.md R66; log entry 2). -/
def State.withFetchWord (s : State) (nbits w : Nat) : State :=
  { s with
    pend := BitVec.ofNat 32 (w % 2 ^ nbits), busy := true, rst := false
    schedule := .engine :: s.schedule }

end Sys2Proof.Machine
end

