-- ==== Sys2Proof/Machine/Assembler.lean ====
section
/-!
DEFINITION. The assembler and the host-program syntax (30_encoding.md R97, R98). Nothing of the machine
calls it: it says how command text becomes a word and how a program becomes host accesses.
-/

namespace Sys2Proof.Machine

open Sys2Proof

/-- The value of a digit of the base; letters of both cases are digits (DESIGN CHOICE, log entry 16). -/
def digitValue (base : Nat) (c : Char) : Option Nat :=
  let n := c.toNat
  let d :=
    if 48 ≤ n ∧ n ≤ 57 then some (n - 48)
    else if 97 ≤ n ∧ n ≤ 102 then some (n - 87)
    else if 65 ≤ n ∧ n ≤ 70 then some (n - 55)
    else none
  d.filter (· < base)

/-- The value of a digit string read on from `acc`. -/
def digitsValue (base : Nat) (acc : Nat) (cs : List Char) : Option Nat :=
  match cs with
  | [] => some acc
  | c :: rest =>
    match digitValue base c with
    | none => none
    | some d => digitsValue base (base * acc + d) rest

/-- A decimal number or a 0x-prefixed hexadecimal one (30_encoding.md R97). -/
def numberValue (cs : List Char) : Option Nat :=
  match cs with
  | [] => none
  | ['0', 'x'] => none
  | '0' :: 'x' :: rest => digitsValue 16 0 rest
  | cs => digitsValue 10 0 cs

/-- The command of a mnemonic and its operand, if the mnemonic takes one (30_encoding.md R97). -/
def commandOf (mnemonic : String) (operand : Option Nat) : Option Instr :=
  match operand with
  | none =>
    [Instr.bxor, .badd, .brf, .bsplit, .bjoin, .expand, .nextkey, .initf, .inits, .join, .nop,
      .clrerr].find? fun i => i.mnemonic == mnemonic
  | some n =>
    [Instr.setpos n, .getkey n, .sbox n, .enc n, .dec n].find? fun i => i.mnemonic == mnemonic

/-- The text of a command: its mnemonic, then one operand if the row has one (30_encoding.md R97). Exactly
one space stands between the two and no other blank anywhere; the rule does not speak of blanks (DESIGN
CHOICE, log entry 16). -/
def parseCommand (text : List Char) : Option Instr :=
  let name := String.ofList (text.takeWhile (· ≠ ' '))
  match text.dropWhile (· ≠ ' ') with
  | [] => commandOf name none
  | _ :: number =>
    match numberValue number with
    | none => none
    | some n => commandOf name (some n)

/-- The word a command's text assembles to; an operand outside its field is an assembly error and has
no encoding (30_encoding.md R97). -/
def assemble (text : String) : Option Word :=
  match parseCommand text.toList with
  | none => none
  | some i => if i.wellFormed then some (encode i) else none

/-- ISSUE c (30_encoding.md R98). -/
def issue (i : Instr) : List HostOp := [.wr cmdAddr (encode i)]

/-- A bare command: ISSUE c, then WAIT (30_encoding.md R98). -/
def bareCommand (i : Instr) : List HostOp := issue i ++ [.wait]

/-- The window address of word k of a register at base address a (20_memory.md R62). The spec gives no
address past 0x1FF (R60) and does not say what an expansion that reaches one does; here a + 4k wraps mod
512 (DESIGN CHOICE, log entry 17). -/
def wordAddr (a : WindowAddr) (k : Nat) : WindowAddr := a + BitVec.ofNat 9 (4 * k)

/-- LOAD128 A, X (30_encoding.md R98). -/
def load128 (a : WindowAddr) (x : Block128) : List HostOp :=
  (List.range 4).map fun k => .wr (wordAddr a k) (blockWord x k)

/-- LOAD256 A, Y (30_encoding.md R98). -/
def load256 (a : WindowAddr) (y : Block256) : List HostOp :=
  (List.range 8).map fun k => .wr (wordAddr a k) (blockWord y k)

/-- The reads of READ128 A (30_encoding.md R98). -/
def read128 (a : WindowAddr) : List HostOp := (List.range 4).map fun k => .rd (wordAddr a k)

/-- The reads of READ256 A (30_encoding.md R98). -/
def read256 (a : WindowAddr) : List HostOp := (List.range 8).map fun k => .rd (wordAddr a k)

/-- The block whose words, in address order, are the given ones: the unpacking of READ128 and READ256
(30_encoding.md R98, 20_memory.md R62). -/
def unpackBlock (n : Nat) (ws : List Word) : Vector Byte n :=
  Vector.ofFn fun j : Fin n => byteOf (j.val % 4) (ws.getD (j.val / 4) 0#32)

/-- The read of CHECK (30_encoding.md R98). -/
def checkOps : List HostOp := [.rd statusAddr]

/-- CHECK's verdict on the STATUS word it read: the program is in error if bit 1 is 1
(30_encoding.md R98). -/
def programInError (status : Word) : Bool := status.getLsbD 1

/-- The block whose bytes are the given ones, if there are exactly as many. -/
def blockOfBytes (n : Nat) (bs : List Byte) : Option (Vector Byte n) :=
  if bs.length = n then some (Vector.ofFn fun j : Fin n => bs.getD j.val 0#8) else none

/-- The code of an ASCII character. -/
def asciiCode (c : Char) : Option Byte := if c.toNat < 128 then some (BitVec.ofNat 8 c.toNat) else none

/-- A block written as an ASCII string of exactly as many characters as it has bytes, byte j being the
code of character j; any other string writes no block (30_encoding.md R98). -/
def asciiBlock (n : Nat) (cs : List Char) : Option (Vector Byte n) :=
  match cs.mapM asciiCode with
  | none => none
  | some bs => blockOfBytes n bs

/-- The bytes that hexadecimal text writes: two digits a byte, blanks between bytes allowed
(30_encoding.md R98; the spelling is a DESIGN CHOICE, log entry 16). -/
def hexBytes (cs : List Char) : Option (List Byte) :=
  match cs with
  | [] => some []
  | ' ' :: rest => hexBytes rest
  | [_] => none
  | hi :: lo :: rest =>
    match digitsValue 16 0 [hi, lo], hexBytes rest with
    | some v, some bs => some (BitVec.ofNat 8 v :: bs)
    | _, _ => none

/-- A block written as hexadecimal bytes in index order, exactly as many as it has (30_encoding.md
R98). -/
def hexBlock (n : Nat) (cs : List Char) : Option (Vector Byte n) :=
  match hexBytes cs with
  | none => none
  | some bs => blockOfBytes n bs

/-- The double quote. -/
def quoteChar : Char := Char.ofNat 34

/-- X or Y as a program writes it (30_encoding.md R98): a quoted ASCII string, or hexadecimal bytes.
Between the two quotes every character stands for itself (DESIGN CHOICE, log entry 16). -/
def blockLiteral (n : Nat) (text : String) : Option (Vector Byte n) :=
  match text.toList with
  | [] => none
  | c :: rest =>
    if c = quoteChar then
      if rest.getLast? = some quoteChar then asciiBlock n rest.dropLast else none
    else hexBlock n (c :: rest)

/-- LOAD128 A, X with X as a program writes it (30_encoding.md R98). -/
def load128Text (a : WindowAddr) (x : String) : Option (List HostOp) :=
  (blockLiteral 16 x).map (load128 a)

/-- LOAD256 A, Y with Y as a program writes it (30_encoding.md R98). -/
def load256Text (a : WindowAddr) (y : String) : Option (List HostOp) :=
  (blockLiteral 32 y).map (load256 a)

end Sys2Proof.Machine
end

