-- ==== Sys2Proof/Safety.lean ====
section
/-!
DEFINITION. What statements about the machine use: the invariant of reachable states, part by part.
-/

namespace Sys2Proof.Machine

open Sys2Proof

/-- The scheduled variant exists only over an expanded key (42_feistel.md R190). -/
def schedHasKey (s : State) : Prop := s.variant = .sched → s.keyvalid = true

/-- The engine's fields agree: no variant exactly in IDLE, a last pass exactly in FINAL, and a DEC only
on the scheduled variant (10_state.md R33, 42_feistel.md R190). -/
def engineConsistent (s : State) : Prop :=
  (s.variant = .none ↔ s.engine = .idle) ∧ (s.lastop ≠ .none ↔ s.engine = .final) ∧
    (s.lastop = .dec → s.variant = .sched)

/-- ECODE is 0 exactly when ERR = 0 (10_state.md R23). -/
def faultConsistent (s : State) : Prop := s.err = false ↔ s.ecode = .none

/-- While ERR = 1 the only command that can be pending is CLRERR (60_exceptions.md R244). -/
def onlyClrerrPending (s : State) : Prop := s.err = true → s.busy = true → s.pend = clrerrWord

/-- With KEYVALID = 1 the table is the expansion of some root key; without, it and the cursor are as
reset left them (10_state.md R30, R31, R29). -/
def tableConsistent (s : State) : Prop :=
  (s.keyvalid = true → ∃ k, s.w = keyExpansion k) ∧
    (s.keyvalid = false → s.w = State.reset.w ∧ s.cursor = State.reset.cursor)

/-- While reset is asserted every register holds its reset value (70_reset_and_hazards.md R280). -/
def resetHeld (s : State) : Prop := s.rst = true → s = assertReset s

/-- The invariant of every state a run from reset can reach. -/
def State.Inv (s : State) : Prop :=
  schedHasKey s ∧ engineConsistent s ∧ faultConsistent s ∧ onlyClrerrPending s ∧
    tableConsistent s ∧ resetHeld s

/-- The ENGINE's execution of a sequence of commands, one after the other, none of them discarded
(30_encoding.md R99: the order of issue is the only sequencing). -/
def execAll (cs : List Instr) (s : State) : Host.Outcome State Fault Refusal :=
  match cs with
  | [] => .next s
  | c :: rest =>
    match exec c s with
    | .next t => execAll rest t
    | .fault r => .fault r
    | .refused r => .refused r

/-- The next step is the ENGINE's, with a command pending: the interleaving names it, or names nobody
(00_scope.md R13; log entry 1). -/
def engineMovesNext (s : State) : Prop :=
  s.rst = false ∧ s.busy = true ∧ (s.schedule = [] ∨ s.schedule.head? = some .engine)

/-- The next step is the HOST's: the interleaving names it, or names nobody while no command is pending
(00_scope.md R13; log entry 1). -/
def hostMovesNext (s : State) : Prop :=
  s.rst = false ∧ (s.schedule.head? = some .host ∨ (s.schedule = [] ∧ s.busy = false))

/-- The commands whose rules write CURSOR; ENC only on the scheduled variant (10_state.md R29). -/
def writesCursor (i : Instr) (s : State) : Prop :=
  i = .nextkey ∨ i = .expand ∨ ∃ n, i = .setpos n ∨ i = .dec n ∨ (i = .enc n ∧ s.variant = .sched)

/-- The rows of the table of engine transitions that allow the command i in s, with the (STATE, VARIANT,
LASTOP) they give t (42_feistel.md R190). -/
def engineTransition (i : Instr) (s t : State) : Prop :=
  (i = .initf ∧ t.engine = .ready ∧ t.variant = .fixed ∧ t.lastop = .none) ∨
  (i = .inits ∧ s.keyvalid = true ∧
    t.engine = .ready ∧ t.variant = .sched ∧ t.lastop = .none) ∨
  (∃ n, i = .enc n ∧ s.engine = .ready ∧
    t.engine = .final ∧ t.variant = s.variant ∧ t.lastop = .enc) ∨
  ∃ n, i = .dec n ∧ s.variant = .sched ∧
    (s.engine = .ready ∨ (s.engine = .final ∧ s.lastop = .enc)) ∧
    t.engine = .final ∧ t.variant = .sched ∧ t.lastop = .dec

/-- Executing the word faults EILLEGAL and changes nothing but the fault state, BUSY and ERRCMD
(30_encoding.md R92, R94, R95). -/
def faultsIllegal (v : Word) : Prop :=
  ∀ s : State, s.pend = v →
    runPending s = .next { s with err := true, ecode := .eillegal, errcmd := v, busy := false }

/-- The pass of n rounds keeps within the index policy: under OORPOL = FAULT at most 11 rounds
(42_feistel.md R198). -/
def withinPolicy (s : State) (n : Nat) : Prop := s.oorpol = .fault → n ≤ 11

end Sys2Proof.Machine
end

