-- ==== Sys2Proof/Certificates/Slice0/Obligations.lean ====
section
/-!
DEFINITION. The statements for the provers. Each docstring names the rule of spec/ it formalises, or
says that it rests on the model's own choice.
-/

open Sys2Proof Sys2Proof.Machine

/-! ### Encoding -/

/-- 30_encoding.md R93: one written-out word of each family decodes to its command. -/
def Obligations.TableWordsDecodeToTheirCommands : Prop :=
  decode 0x30000000#32 = .ok .bxor ∧ decode 0x34000000#32 = .ok .bjoin ∧
  decode 0x11000005#32 = .ok (.setpos 5) ∧ decode 0x1200000A#32 = .ok (.getkey 10) ∧
  decode 0x140000DC#32 = .ok (.sbox 0xdc) ∧ decode 0x22000020#32 = .ok (.enc 32) ∧
  decode 0x23000001#32 = .ok (.dec 1) ∧ decode 0x00000000#32 = .ok .nop ∧
  decode 0x01000000#32 = .ok .clrerr

/-- 30_encoding.md R90, R91, R97: decoding the word of a well-formed command gives the command back,
with every operand at every value its field admits. -/
def Obligations.DecodeOfEncodeIsTheCommand : Prop :=
  ∀ i : Instr, i.wellFormed = true → decode (encode i) = .ok i

/-- 30_encoding.md R90, R94: a word that decodes is the word of what it decodes to, so no bit of it is
dropped, and its operand fits its field. -/
def Obligations.EncodeOfDecodeIsTheWord : Prop :=
  ∀ (v : Word) (i : Instr), decode v = .ok i → encode i = v ∧ i.wellFormed = true

/-- 30_encoding.md R92, R93: a word decodes to a command exactly if a row of the opcode map matches it,
the row is the command's own, and no second row matches. -/
def Obligations.DecodeAcceptsExactlyTheRowsOfTheMap : Prop :=
  (∀ (v : Word) (m : String),
    (∃ i, decode v = .ok i ∧ i.mnemonic = m) ↔
      ∃ r ∈ opcodeRows, r.mnemonic = m ∧ v &&& r.mask = r.matchWord) ∧
  ∀ v : Word, ∀ r ∈ opcodeRows, ∀ r' ∈ opcodeRows,
    v &&& r.mask = r.matchWord → v &&& r'.mask = r'.matchWord → r = r'

/-- 30_encoding.md R94, R95: a word with an unassigned OPC, a nonzero RSV, a nonzero IMM16 where the row
takes no operand, or nonzero IMM16[15:8] for SBOX faults EILLEGAL when it is executed. -/
def Obligations.StrayBitsAndUnassignedOpcodesAreIllegal : Prop :=
  (∀ v : Word, (∀ r ∈ opcodeRows, v.extractLsb' 24 8 ≠ r.matchWord.extractLsb' 24 8) →
    faultsIllegal v) ∧
  (∀ v : Word, v.extractLsb' 16 8 ≠ 0#8 → faultsIllegal v) ∧
  (∀ v : Word, v.extractLsb' 24 8 ∉ [0x11#8, 0x12#8, 0x14#8, 0x22#8, 0x23#8] →
    v.extractLsb' 0 16 ≠ 0#16 → faultsIllegal v) ∧
  ∀ v : Word, v.extractLsb' 24 8 = 0x14#8 → v.extractLsb' 8 8 ≠ 0#8 → faultsIllegal v

/-! ### Steps -/

/-- 30_encoding.md R92: when the pending word decodes to a command and the ENGINE moves next, the step is
the command's execution in the same state, the interleaving shortened by its turn. That the interleaving
is data of the state is the model's choice (log entry 1). -/
def Obligations.StepRunsTheDecodedCommand : Prop :=
  ∀ (s : State) (i : Instr), engineMovesNext s → decode s.pend = .ok i →
    step s = exec i { s with schedule := s.schedule.tail }

/-- 30_encoding.md R92 with 60_exceptions.md R241: a pending word that no row of the map matches faults
EILLEGAL, and nothing but the fault state changes (and the interleaving, log entry 1). -/
def Obligations.WordOutsideTheMapFaultsEillegal : Prop :=
  ∀ s : State, engineMovesNext s → (∀ r ∈ opcodeRows, s.pend &&& r.mask ≠ r.matchWord) →
    step s = .next { s with
      schedule := s.schedule.tail
      err := true, ecode := .eillegal, errcmd := s.pend, busy := false }

/-- 00_scope.md R13: a pending command eventually completes. The bound is the model's choice (log entry
1): once the interleaving that stands in the state is used up, the ENGINE moves. -/
def Obligations.PendingCommandCompletesWithinTheInterleaving : Prop :=
  ∀ s : State, s.Inv → s.busy = true → ∃ n, n ≤ s.schedule.length + 1 ∧
    ∃ t, Sys2Proof.core.run n s = .next t ∧ t.busy = false

/-- 20_memory.md R70, R75: while a command is pending, host steps change none of the block's registers but
OVR, so the operands at execution are those at issue (the host's own fields are log entries 1, 2, 4). -/
def Obligations.HostStepsWhileBusyLeaveTheOperands : Prop :=
  ∀ (n : Nat) (s : State) (rest : List Turn), s.rst = false → s.busy = true →
    s.schedule = List.replicate n .host ++ rest →
    ∃ t, Sys2Proof.core.run n s = .next t ∧ t = { s with
      ovr := t.ovr, host := t.host, reads := t.reads, draws := t.draws, schedule := rest }

/-- 70_reset_and_hazards.md R280: asserting reset puts every register to its reset value in one step,
whatever is pending; while it is asserted the ENGINE changes nothing and a host access is refused; its
release changes no register. That reset stays asserted until released, and what survives it outside the
block, is log entry 5. -/
def Obligations.ResetInputResetsEveryRegister : Prop :=
  (∀ (s : State) (rest : List Turn), s.schedule = .rstAssert :: rest →
    step s = .next { State.reset with
      rst := true, schedule := rest, host := s.host, reads := s.reads, draws := s.draws }) ∧
  (∀ (s : State) (rest : List Turn), s.rst = true → s.schedule = .engine :: rest →
    step s = .next { s with schedule := rest }) ∧
  (∀ (s : State) (rest : List Turn) (op : HostOp) (ops : List HostOp), s.rst = true →
    s.schedule = .host :: rest → s.host = op :: ops → step s = .refused .hostAccessInReset) ∧
  ∀ (s : State) (rest : List Turn), s.schedule = .rstRelease :: rest →
    step s = .next { s with rst := false, schedule := rest }

/-- 70_reset_and_hazards.md R281: every register after reset, and that its W is not the expansion of the
zero key. -/
def Obligations.ResetValuesAreTheTablesValues : Prop :=
  ctrlWord State.reset = 0x00000000#32 ∧ statusWord State.reset = 0x00000000#32 ∧
  State.reset.errcmd = 0x00000000#32 ∧
  (∀ j : Fin 16, State.reset.rootkey[j] = 0#8 ∧ State.reset.fkey[j] = 0#8 ∧
    State.reset.left[j] = 0#8 ∧ State.reset.right[j] = 0#8 ∧ State.reset.opa[j] = 0#8 ∧
    State.reset.opb[j] = 0#8 ∧ State.reset.res[j] = 0#8 ∧ State.reset.rkout[j] = 0#8) ∧
  (∀ j : Fin 32, State.reset.blk[j] = 0#8) ∧ State.reset.byteout = 0#8 ∧
  (∀ i : Fin 44, State.reset.w[i] = 0#32) ∧ State.reset.pend = 0#32 ∧
  State.reset.busy = false ∧ State.reset.oorpol = .wrap ∧ State.reset.rfsel = .add8 ∧
  State.reset.errie = false ∧ State.reset.keyvalid = false ∧ State.reset.engine = .idle ∧
  State.reset.variant = .none ∧ State.reset.lastop = .none ∧ State.reset.cursor = 0 ∧
  State.reset.err = false ∧ State.reset.ecode = .none ∧ State.reset.ovr = false ∧
  errOut State.reset = false ∧ (keyExpansion State.reset.rootkey)[4] = 0x62636363#32

/-- The invariant of Safety.lean holds at reset. -/
def Obligations.ReachableInvariantHoldsAtReset : Prop := State.reset.Inv

/-- Every step, of any agent, keeps the invariant of Safety.lean (42_feistel.md R190, 10_state.md R23,
R29, R30, R31, 60_exceptions.md R244, 70_reset_and_hazards.md R280). That a run is the interleaving in
the state, and that reset is a level, are the model's choices (log entries 1, 5). -/
def Obligations.ReachableInvariantIsKeptByEveryStep : Prop :=
  ∀ s t : State, s.Inv → step s = .next t → t.Inv

/-! ### The host window -/

/-- 20_memory.md R66: a write to CMD, in its cases, and the completion: the step that executes the
pending word clears BUSY (whose turn it is: log entry 1). -/
def Obligations.CmdWriteIssuesOrIsDiscarded : Prop :=
  (∀ s : State, engineMovesNext s → ∃ t, step s = .next t ∧ t.busy = false) ∧
  ∀ (s : State) (v : Word),
    (s.busy = true → memWrite 0x000#9 v s = { s with ovr := true }) ∧
    (s.busy = false → s.err = true → v ≠ 0x01000000#32 → memWrite 0x000#9 v s = s) ∧
    (s.busy = false → s.err = true → v = 0x01000000#32 →
      memWrite 0x000#9 v s = { s with pend := v, busy := true }) ∧
    (s.busy = false → s.err = false → memWrite 0x000#9 v s = { s with pend := v, busy := true })

/-- 20_memory.md R70: every write while BUSY = 1 is discarded and sets OVR, whatever its address. -/
def Obligations.WriteWhileBusyOnlySetsOvr : Prop :=
  ∀ (s : State) (a : WindowAddr) (v : Word), s.busy = true →
    memWrite a v s = { s with ovr := true }

/-- 20_memory.md R61: address bits [1:0] are ignored by reads and writes. -/
def Obligations.LowAddressBitsAreIgnored : Prop :=
  ∀ (s : State) (a b : WindowAddr) (v : Word), a >>> 2 = b >>> 2 →
    memWrite a v s = memWrite b v s ∧ memReadValue a s = memReadValue b s

/-- 20_memory.md R60, R71: a read gives the host the value `memReadValue` and changes no register; while
BUSY = 1 a read of STATUS is exact and any other read takes the next free value, which is not taken again
(the model's form of it: log entries 2, 4). -/
def Obligations.ReadsChangeNoRegister : Prop :=
  ∀ (s : State) (a : WindowAddr),
    memRead a s = { s with
      reads := memReadValue a s :: s.reads
      draws := if s.busy = true ∧ a >>> 2 ≠ 1#9 then s.draws + 1 else s.draws } ∧
    (a >>> 2 = 1#9 → memReadValue a s = statusWord s) ∧
    (s.busy = true → a >>> 2 ≠ 1#9 → memReadValue a s = Config.busyRead s.draws)

/-- 20_memory.md R62, R67: while BUSY = 0 a write of word k of a writable block sets exactly bytes 4k to
4k+3, little-endian, and nothing else changes. -/
def Obligations.BlockWriteSetsExactlyFourBytes : Prop :=
  ∀ (s : State) (v : Word), s.busy = false →
    (∀ k : Fin 4, ∃ x, memWrite (0x010#9 + BitVec.ofNat 9 (4 * k)) v s = { s with rootkey := x } ∧
      ∀ j : Fin 16, x[j] = if j.val / 4 = k then v.extractLsb' (8 * (j.val % 4)) 8 else s.rootkey[j]) ∧
    (∀ k : Fin 4, ∃ x, memWrite (0x020#9 + BitVec.ofNat 9 (4 * k)) v s = { s with fkey := x } ∧
      ∀ j : Fin 16, x[j] = if j.val / 4 = k then v.extractLsb' (8 * (j.val % 4)) 8 else s.fkey[j]) ∧
    (∀ k : Fin 8, ∃ x, memWrite (0x030#9 + BitVec.ofNat 9 (4 * k)) v s = { s with blk := x } ∧
      ∀ j : Fin 32, x[j] = if j.val / 4 = k then v.extractLsb' (8 * (j.val % 4)) 8 else s.blk[j]) ∧
    (∀ k : Fin 4, ∃ x, memWrite (0x070#9 + BitVec.ofNat 9 (4 * k)) v s = { s with opa := x } ∧
      ∀ j : Fin 16, x[j] = if j.val / 4 = k then v.extractLsb' (8 * (j.val % 4)) 8 else s.opa[j]) ∧
    (∀ k : Fin 4, ∃ x, memWrite (0x080#9 + BitVec.ofNat 9 (4 * k)) v s = { s with opb := x } ∧
      ∀ j : Fin 16, x[j] = if j.val / 4 = k then v.extractLsb' (8 * (j.val % 4)) 8 else s.opb[j])

/-- 20_memory.md R62, R63, R68: while BUSY = 0 byte j of a block stands in bits
[8*(j mod 4)+7 : 8*(j mod 4)] of the word at base + 4*(j div 4). -/
def Obligations.BlockReadsAreLittleEndian : Prop :=
  ∀ s : State, s.busy = false →
    (∀ j : Fin 16,
      let byteAt := fun base : WindowAddr =>
        (memReadValue (base + BitVec.ofNat 9 (4 * (j.val / 4))) s).extractLsb' (8 * (j.val % 4)) 8
      byteAt 0x010#9 = s.rootkey[j] ∧ byteAt 0x020#9 = s.fkey[j] ∧ byteAt 0x050#9 = s.left[j] ∧
      byteAt 0x060#9 = s.right[j] ∧ byteAt 0x070#9 = s.opa[j] ∧ byteAt 0x080#9 = s.opb[j] ∧
      byteAt 0x090#9 = s.res[j] ∧ byteAt 0x0A0#9 = s.rkout[j]) ∧
    ∀ j : Fin 32,
      (memReadValue (0x030#9 + BitVec.ofNat 9 (4 * (j.val / 4))) s).extractLsb' (8 * (j.val % 4)) 8
        = s.blk[j]

/-- 20_memory.md R63, R64, R68: while BUSY = 0 the other words of the window read as the map says; CMD and
reserved words read 0; W words read raw (the spec's own inference, its R69). -/
def Obligations.OtherWindowWordsReadAsTheMapSays : Prop :=
  ∀ s : State, s.busy = false →
    memReadValue 0x000#9 s = 0#32 ∧ memReadValue 0x004#9 s = statusWord s ∧
    memReadValue 0x008#9 s = s.errcmd ∧ memReadValue 0x00C#9 s = ctrlWord s ∧
    memReadValue 0x0B0#9 s = s.byteout.zeroExtend 32 ∧
    (∀ i : Fin 44, memReadValue (0x100#9 + BitVec.ofNat 9 (4 * i)) s = s.w[i]) ∧
    ∀ a : WindowAddr, (0x0B4 ≤ a.toNat ∧ a.toNat < 0x100) ∨ 0x1B0 ≤ a.toNat →
      memReadValue a s = 0#32

/-- 20_memory.md R64: while BUSY = 0 a write to a read-only or reserved address changes nothing. -/
def Obligations.ReadOnlyAndReservedWordsIgnoreWrites : Prop :=
  ∀ (s : State) (a : WindowAddr) (v : Word), s.busy = false →
    (0x004 ≤ a.toNat ∧ a.toNat < 0x00C) ∨ (0x050 ≤ a.toNat ∧ a.toNat < 0x070) ∨ 0x090 ≤ a.toNat →
    memWrite a v s = s

/-- 10_state.md R22: a write of CTRL takes bits [2:0], the rest read 0, and nothing else changes. -/
def Obligations.CtrlWriteTakesThreeBits : Prop :=
  ∀ (s : State) (v : Word), s.busy = false →
    memReadValue 0x00C#9 (memWrite 0x00C#9 v s) = v &&& 0x00000007#32 ∧
    memWrite 0x00C#9 v s = { s with
      oorpol := if v.getLsbD 0 then .fault else .wrap
      rfsel := if v.getLsbD 1 then .ext else .add8
      errie := v.getLsbD 2 }

/-- 10_state.md R23: the fields of STATUS. -/
def Obligations.StatusFieldsShowTheState : Prop :=
  ∀ s : State,
    (statusWord s).getLsbD 0 = s.busy ∧ (statusWord s).getLsbD 1 = s.err ∧
    (statusWord s).getLsbD 2 = s.ovr ∧ (statusWord s).getLsbD 3 = s.keyvalid ∧
    (∀ c ∈ [(EngineState.idle, 0#2), (.ready, 1#2), (.final, 2#2)], s.engine = c.1 →
      (statusWord s).extractLsb' 4 2 = c.2) ∧
    (∀ c ∈ [(Variant.none, 0#2), (.fixed, 1#2), (.sched, 2#2)], s.variant = c.1 →
      (statusWord s).extractLsb' 6 2 = c.2) ∧
    (∀ c ∈ [(LastOp.none, 0#2), (.enc, 1#2), (.dec, 2#2)], s.lastop = c.1 →
      (statusWord s).extractLsb' 8 2 = c.2) ∧
    (statusWord s).extractLsb' 10 2 = 0#2 ∧
    ((statusWord s).extractLsb' 12 4).toNat = s.cursor.val ∧
    (∀ c ∈ [(FaultCode.none, 0#4), (.eillegal, 1#4), (.eseq, 2#4), (.evariant, 3#4),
        (.erounds, 4#4), (.enokey, 5#4), (.eindex, 6#4)], s.ecode = c.1 →
      (statusWord s).extractLsb' 16 4 = c.2) ∧
    (statusWord s).extractLsb' 20 12 = 0#12

/-- 30_encoding.md R98, 20_memory.md R60, 70_reset_and_hazards.md R284: the HOST's step performs its next
access: a `wr` is MemWrite, a `rd` is MemRead, and a WAIT reads STATUS and is left behind exactly when
BUSY = 0. Whose turn it is, the host's list, WAIT as one host operation and the idle turn are the model's
choices (log entries 1, 2, 10, 14). -/
def Obligations.HostStepPerformsTheNextAccess : Prop :=
  ∀ s : State, hostMovesNext s →
    (∀ a v ops, s.host = .wr a v :: ops →
      step s = .next (memWrite a v { s with schedule := s.schedule.tail, host := ops })) ∧
    (∀ a ops, s.host = .rd a :: ops →
      step s = .next (memRead a { s with schedule := s.schedule.tail, host := ops })) ∧
    (∀ ops, s.host = .wait :: ops → step s = .next { s with
      schedule := s.schedule.tail, reads := statusWord s :: s.reads
      host := if s.busy then s.host else ops }) ∧
    (s.host = [] → step s = .next { s with schedule := s.schedule.tail })

/-! ### Faults -/

/-- 60_exceptions.md R241: a command or word that faults, whatever the code, changes nothing but the
fault state, BUSY and ERRCMD; ERRCMD is the pending word. -/
def Obligations.FaultingCommandIsPrecise : Prop :=
  (∀ (i : Instr) (s t : State), s.err = false → exec i s = .next t → t.err = true →
    t.ecode ≠ .none ∧
    t = { s with err := true, ecode := t.ecode, errcmd := s.pend, busy := false }) ∧
  ∀ s t : State, s.err = false → runPending s = .next t → t.err = true →
    t.ecode ≠ .none ∧
    t = { s with err := true, ecode := t.ecode, errcmd := s.pend, busy := false }

/-- 60_exceptions.md R240: which commands raise which fault. -/
def Obligations.FaultCodesComeFromTheirCommands : Prop :=
  ∀ (i : Instr) (s t : State), s.err = false → exec i s = .next t → t.err = true →
    match t.ecode with
    | .none => False
    | .eillegal => False
    | .eseq => ∃ n, i = .enc n ∨ i = .dec n
    | .evariant => ∃ n, i = .dec n
    | .erounds => i = .enc 0 ∨ i = .dec 0
    | .enokey => i = .inits ∨ i = .nextkey ∨ ∃ n, i = .setpos n ∨ i = .getkey n
    | .eindex => ∃ n, 10 < n ∧ (i = .setpos n ∨ i = .getkey n ∨ i = .dec n ∨
        (i = .enc n ∧ s.variant = .sched))

/-- 60_exceptions.md R244, R247: in a reachable state with ERR = 1, a step that leaves ERR = 1 leaves
ECODE and ERRCMD as they are: faults do not nest. -/
def Obligations.FaultsDoNotNest : Prop :=
  ∀ s t : State, s.Inv → s.err = true → step s = .next t → t.err = true →
    t.ecode = s.ecode ∧ t.errcmd = s.errcmd

/-- 60_exceptions.md R250: err_o = ERR and ERRIE; CLRERR clears it and a write of ERRIE = 0 masks it. -/
def Obligations.ErrorOutputFollowsErrAndErrie : Prop :=
  (∀ s : State, errOut s = true ↔ s.err = true ∧ s.errie = true) ∧
  (∀ s : State, ∃ t, exec .clrerr s = .next t ∧ errOut t = false) ∧
  (∀ (s : State) (v : Word), s.busy = false → v.getLsbD 2 = false →
    errOut (memWrite 0x00C#9 v s) = false) ∧
  errOut State.reset = false

/-! ### Control commands -/

/-- 43_control.md R230: NOP's word, its only effect, that any other word of its OPC is illegal, and that
its write is discarded while ERR = 1 or BUSY = 1. -/
def Obligations.NopOnlyCompletes : Prop :=
  encode .nop = 0x00000000#32 ∧ (∀ s : State, exec .nop s = .next { s with busy := false }) ∧
  (∀ v : Word, v.extractLsb' 24 8 = 0x00#8 → v ≠ 0#32 → faultsIllegal v) ∧
  (∀ s : State, s.busy = false → s.err = true → memWrite 0x000#9 0x00000000#32 s = s) ∧
  ∀ s : State, s.busy = true → memWrite 0x000#9 0x00000000#32 s = { s with ovr := true }

/-- 43_control.md R231: CLRERR's word and effect; it is accepted with ERR = 1, as the only word, and with
ERR = 0; err_o falls. -/
def Obligations.ClrerrClearsTheFaultState : Prop :=
  encode .clrerr = 0x01000000#32 ∧
  (∀ s : State,
    let t := { s with err := false, ecode := .none, ovr := false, busy := false }
    exec .clrerr s = .next t ∧ errOut t = false) ∧
  (∀ (s : State) (v : Word), s.busy = false → s.err = true → v ≠ 0x01000000#32 →
    memWrite 0x000#9 v s = s) ∧
  ∀ s : State, s.busy = false →
    memWrite 0x000#9 0x01000000#32 s = { s with pend := 0x01000000#32, busy := true }

/-! ### Block arithmetic -/

/-- 40_block_arith.md R120, R123: BXOR's word, its result byte by byte, and its frame. -/
def Obligations.BxorXorsEveryByte : Prop :=
  encode .bxor = 0x30000000#32 ∧
  ∀ s : State, ∃ x, exec .bxor s = .next { s with res := x, busy := false } ∧
    ∀ j : Fin 16, x[j] = s.opa[j] ^^^ s.opb[j]

/-- 40_block_arith.md R120, R124: BADD's word, its result byte by byte mod 256, and its frame. -/
def Obligations.BaddAddsEveryByteModulo256 : Prop :=
  encode .badd = 0x31000000#32 ∧
  ∀ s : State, ∃ x, exec .badd s = .next { s with res := x, busy := false } ∧
    ∀ j : Fin 16, x[j].toNat = (s.opa[j].toNat + s.opb[j].toNat) % 256

/-- 40_block_arith.md R121, R125: BRF's word, its result under both settings of RFSEL, and its frame. -/
def Obligations.BrfAppliesTheSelectedRoundFunction : Prop :=
  encode .brf = 0x32000000#32 ∧
  (∀ s : State, s.rfsel = .ext →
    exec .brf s = .next { s with res := Config.rfExt s.opa s.opb, busy := false }) ∧
  ∀ s : State, s.rfsel = .add8 →
    ∃ x, exec .brf s = .next { s with res := x, busy := false } ∧
      exec .badd s = .next { s with res := x, busy := false } ∧
      ∀ j : Fin 16, x[j].toNat = (s.opa[j].toNat + s.opb[j].toNat) % 256

/-- 40_block_arith.md R122, R126: BSPLIT's word, its two results, and its frame. -/
def Obligations.BsplitTakesTheHalvesOfBlk : Prop :=
  encode .bsplit = 0x33000000#32 ∧
  ∀ s : State, ∃ x y, exec .bsplit s = .next { s with opa := x, opb := y, busy := false } ∧
    ∀ j : Fin 16, x[j] = s.blk[j.val] ∧ y[j] = s.blk[16 + j.val]

/-- 40_block_arith.md R122, R127: BJOIN's word, its result, and its frame. -/
def Obligations.BjoinJoinsTheOperands : Prop :=
  encode .bjoin = 0x34000000#32 ∧
  ∀ s : State, ∃ y : Block256, exec .bjoin s = .next { s with blk := y, busy := false } ∧
    ∀ j : Fin 16, y[j.val] = s.opa[j] ∧ y[16 + j.val] = s.opb[j]

/-- The algebraic laws of the block functions, from 40_block_arith.md R120 and R122. The spec marks the
laws (its R129) as its own inference from those. -/
def Obligations.BlockFunctionsObeyTheAlgebraicLaws : Prop :=
  (∀ a k : Block128, xor128 (xor128 a k) k = a) ∧ (∀ a b : Block128, xor128 a b = xor128 b a) ∧
  (∀ a b : Block128, add8 a b = add8 b a) ∧
  (∀ y : Block256, joinBlocks (splitLeft y) (splitRight y) = y) ∧
  ∀ l r : Block128, splitLeft (joinBlocks l r) = l ∧ splitRight (joinBlocks l r) = r

/-! ### Key schedule -/

/-- 41_key_schedule.md R151, R165: the S-box is the rule's table, row by row, each row with its entry of
column 0 first; it is a bijection without a fixed point, with the known answer. -/
def Obligations.SboxIsABijectionWithTheKnownAnswer : Prop :=
  (∀ row col : Fin 16, sbox (BitVec.ofNat 8 (16 * row.val + col.val)) =
    ([0x637c777bf26b6fc53001672bfed7ab76#128, 0xca82c97dfa5947f0add4a2af9ca472c0#128,
     0xb7fd9326363ff7cc34a5e5f171d83115#128, 0x04c723c31896059a071280e2eb27b275#128,
     0x09832c1a1b6e5aa0523bd6b329e32f84#128, 0x53d100ed20fcb15b6acbbe394a4c58cf#128,
     0xd0efaafb434d338545f9027f503c9fa8#128, 0x51a3408f929d38f5bcb6da2110fff3d2#128,
     0xcd0c13ec5f974417c4a77e3d645d1973#128, 0x60814fdc222a908846eeb814de5e0bdb#128,
     0xe0323a0a4906245cc2d3ac629195e479#128, 0xe7c8376d8dd54ea96c56f4ea657aae08#128,
     0xba78252e1ca6b4c6e8dd741f4bbd8b8a#128, 0x703eb5664803f60e613557b986c11d9e#128,
     0xe1f8981169d98e949b1e87e9ce5528df#128, 0x8ca1890dbfe6426841992d0fb054bb16#128].getD row.val 0#128).extractLsb' (8 * (15 - col.val)) 8) ∧
  sbox 0xdc#8 = 0x86#8 ∧ sbox 0x00#8 = 0x63#8 ∧ sbox 0xff#8 = 0x16#8 ∧
  (∀ b : Byte, sbox b ≠ b) ∧ (∀ c : Byte, ∃ b, sbox b = c) ∧ ∀ a b : Byte, sbox a = sbox b → a = b

/-- 41_key_schedule.md R152, R153: the round constants, each twice the one before in GF(2^8), and the
recurrence of the key expansion, for every key and every word. -/
def Obligations.KeyExpansionFollowsTheRecurrence : Prop :=
  (List.range 10).map rcon =
    [0x01#8, 0x02#8, 0x04#8, 0x08#8, 0x10#8, 0x20#8, 0x40#8, 0x80#8, 0x1B#8, 0x36#8] ∧
  (∀ j < 9, rcon (j + 1) = if (rcon j).msb then (rcon j <<< 1) ^^^ 0x1B#8 else rcon j <<< 1) ∧
  ∀ k : Block128,
    (∀ i : Fin 4, (keyExpansion k)[i.val] =
      be32 k[4 * i.val] k[4 * i.val + 1] k[4 * i.val + 2] k[4 * i.val + 3]) ∧
    ∀ (i : Nat) (h : i < 44), 4 ≤ i → (keyExpansion k)[i] = (keyExpansion k)[i - 4] ^^^
      (if i % 4 = 0 then
        subWord (rotWord (keyExpansion k)[i - 1]) ^^^ ((rcon (i / 4 - 1)).zeroExtend 32 <<< 24)
      else (keyExpansion k)[i - 1])

/-- 41_key_schedule.md R150: RotWord and SubWord, byte by byte. -/
def Obligations.RotWordAndSubWordActOnBytes : Prop :=
  (∀ v : Word, (rotWord v).toNat = v.toNat % 2 ^ 24 * 2 ^ 8 + v.toNat / 2 ^ 24) ∧
  ∀ (v : Word) (k : Fin 4),
    (subWord v).extractLsb' (8 * k.val) 8 = sbox (v.extractLsb' (8 * k.val) 8)

/-- 41_key_schedule.md R160: EXPAND's word, effect and frame, in every state, with the rule's values for
the all-zero key and for its example key (words 36 and 40 are 95_test_vectors.md section 3.1's). -/
def Obligations.ExpandBuildsTheKeyTable : Prop :=
  encode .expand = 0x10000000#32 ∧
  (∀ s : State, exec .expand s = .next { s with
    w := keyExpansion s.rootkey, keyvalid := true, cursor := 0, busy := false }) ∧
  (keyExpansion (zeroBlock 16))[4] = 0x62636363#32 ∧
  let fips := keyExpansion #v[0x2b#8, 0x7e#8, 0x15#8, 0x16#8, 0x28#8, 0xae#8, 0xd2#8, 0xa6#8,
    0xab#8, 0xf7#8, 0x15#8, 0x88#8, 0x09#8, 0xcf#8, 0x4f#8, 0x3c#8]
  fips[4] = 0xa0fafe17#32 ∧ fips[36] = 0xac7766f3#32 ∧ fips[40] = 0xd014f9a8#32 ∧
    fips[43] = 0xb6630ca6#32

/-- 41_key_schedule.md R156, R161: SETPOS's word, its effect under each index policy, its frame and its
two faults. -/
def Obligations.SetposMovesTheCursorOrFaults : Prop :=
  ∀ (s : State) (i : Nat),
    (i < 65536 → encode (.setpos i) = 0x11000000#32 + BitVec.ofNat 32 i) ∧
    (s.keyvalid = false → exec (.setpos i) s =
      .next { s with err := true, ecode := .enokey, errcmd := s.pend, busy := false }) ∧
    (s.keyvalid = true → s.oorpol = .fault → 10 < i → exec (.setpos i) s =
      .next { s with err := true, ecode := .eindex, errcmd := s.pend, busy := false }) ∧
    (s.keyvalid = true → s.oorpol = .wrap ∨ i ≤ 10 → ∃ c : KeyNumber, c.val = i % 11 ∧
      exec (.setpos i) s = .next { s with cursor := c, busy := false })

/-- 41_key_schedule.md R155, R156, R162: GETKEY's word, its result byte by byte under each index policy,
its frame and its two faults. -/
def Obligations.GetkeyReturnsTheRoundKeyOrFaults : Prop :=
  ∀ (s : State) (i : Nat),
    (i < 65536 → encode (.getkey i) = 0x12000000#32 + BitVec.ofNat 32 i) ∧
    (s.keyvalid = false → exec (.getkey i) s =
      .next { s with err := true, ecode := .enokey, errcmd := s.pend, busy := false }) ∧
    (s.keyvalid = true → s.oorpol = .fault → 10 < i → exec (.getkey i) s =
      .next { s with err := true, ecode := .eindex, errcmd := s.pend, busy := false }) ∧
    (s.keyvalid = true → s.oorpol = .wrap ∨ i ≤ 10 →
      ∃ x : Block128, exec (.getkey i) s = .next { s with rkout := x, busy := false } ∧
        ∀ k j : Fin 4, x[4 * k.val + j.val] =
          (s.w.toList.getD (4 * (i % 11) + k.val) 0#32).extractLsb' (8 * (3 - j.val)) 8)

/-- 41_key_schedule.md R157, R164: NEXTKEY's word, its simultaneous results, its frame and its fault. -/
def Obligations.NextkeyReturnsTheKeyAndAdvances : Prop :=
  encode .nextkey = 0x13000000#32 ∧
  ∀ s : State,
    (s.keyvalid = false → exec .nextkey s =
      .next { s with err := true, ecode := .enokey, errcmd := s.pend, busy := false }) ∧
    (s.keyvalid = true → ∃ (x : Block128) (c : KeyNumber),
      exec .nextkey s = .next { s with rkout := x, cursor := c, busy := false } ∧
      c.val = (if s.cursor.val = 10 then 0 else s.cursor.val + 1) ∧
      ∀ k j : Fin 4, x[4 * k.val + j.val] =
        (s.w.toList.getD (4 * s.cursor.val + k.val) 0#32).extractLsb' (8 * (3 - j.val)) 8)

/-- 41_key_schedule.md R165: SBOX's word, result and frame, in every state. -/
def Obligations.SboxLooksUpOneByte : Prop :=
  ∀ (s : State) (b : Byte),
    encode (.sbox b.toNat) = 0x14000000#32 + b.zeroExtend 32 ∧
    exec (.sbox b.toNat) s = .next { s with byteout := sbox b, busy := false }

/-- 41_key_schedule.md R155, R160, R162: after EXPAND, GETKEY 0 returns the root key. -/
def Obligations.FirstRoundKeyIsTheRootKey : Prop :=
  ∀ s : State, ∃ t, execAll [.expand, .getkey 0] s = .next t ∧ t.rkout = s.rootkey

/-- An inference of the spec's own (its 41_key_schedule.md R166, from R155, R157, R162, R164): from
CURSOR = 0, the (i+1)-th NEXTKEY returns what GETKEY i returns, for every i under WRAP and every i up to
10 under FAULT. -/
def Obligations.NextkeyWalkAgreesWithGetkey : Prop :=
  ∀ (s : State) (i : Nat), s.keyvalid = true → s.cursor = 0 → s.oorpol = .wrap ∨ i ≤ 10 →
    ∃ t u, execAll (List.replicate (i + 1) .nextkey) s = .next t ∧ exec (.getkey i) s = .next u ∧
      t.rkout = u.rkout

/-- 41_key_schedule.md R159, 10_state.md R31: a step changes W only by executing EXPAND or by
reset (steps and the reset turn: log entries 1, 5). -/
def Obligations.OnlyExpandAndResetChangeTheTable : Prop :=
  ∀ s t : State, step s = .next t → t.w ≠ s.w →
    (decode s.pend = .ok .expand ∧ engineMovesNext s ∧ t.w = keyExpansion s.rootkey) ∨
    (s.schedule.head? = some .rstAssert ∧ t.w = State.reset.w)

/-- 10_state.md R29, 41_key_schedule.md R163, 70_reset_and_hazards.md R280: which commands can change
CURSOR; and that a step of any agent changes it only by executing one of them or by reset (steps and the
reset turn: log entries 1, 5). -/
def Obligations.OnlyTheNamedCommandsChangeTheCursor : Prop :=
  (∀ (i : Instr) (s t : State), exec i s = .next t → t.cursor ≠ s.cursor → writesCursor i s) ∧
  ∀ s t : State, step s = .next t → t.cursor ≠ s.cursor →
    (engineMovesNext s ∧ ∃ i, decode s.pend = .ok i ∧ writesCursor i s) ∨
    (s.schedule.head? = some .rstAssert ∧ t.cursor = State.reset.cursor)

/-! ### Feistel engine -/

/-- 42_feistel.md R191: INITF's word, effect and frame, in every state. -/
def Obligations.InitfConstructsTheFixedEngine : Prop :=
  encode .initf = 0x20000000#32 ∧
  ∀ s : State, ∃ x y : Block128, exec .initf s = .next { s with
      left := x, right := y, engine := .ready, variant := .fixed, lastop := .none, busy := false } ∧
    ∀ j : Fin 16, x[j] = s.blk[j.val] ∧ y[j] = s.blk[16 + j.val]

/-- 42_feistel.md R192: INITS's word, effect, frame and fault. -/
def Obligations.InitsConstructsTheScheduledEngine : Prop :=
  encode .inits = 0x21000000#32 ∧
  (∀ s : State, s.keyvalid = false → exec .inits s =
    .next { s with err := true, ecode := .enokey, errcmd := s.pend, busy := false }) ∧
  ∀ s : State, s.keyvalid = true → ∃ x y : Block128, exec .inits s = .next { s with
      left := x, right := y, engine := .ready, variant := .sched, lastop := .none, busy := false } ∧
    ∀ j : Fin 16, x[j] = s.blk[j.val] ∧ y[j] = s.blk[16 + j.val]

/-- 42_feistel.md R193, R196, R198: ENC n on the fixed variant runs n rounds with FKEY, whatever OORPOL
says, and leaves CURSOR. -/
def Obligations.EncFixedRunsRoundsWithFkey : Prop :=
  ∀ (s : State) (n : Nat), s.engine = .ready → s.variant = .fixed → n ≠ 0 →
    ∃ x y : Block128, exec (.enc n) s = .next { s with
        left := x, right := y, engine := .final, lastop := .enc, busy := false } ∧
      (x, y) = (List.range n).foldl
        (fun p _ => (xor128 p.2 (roundFunction s.rfsel p.1 s.fkey), p.1)) (s.left, s.right)

/-- 42_feistel.md R193, R196, R198, R199: ENC n on the scheduled variant runs rounds 0 to n-1 with round
keys KeyIndex(r) and sets CURSOR to 0. -/
def Obligations.EncScheduledRunsRoundsInRisingOrder : Prop :=
  ∀ (s : State) (n : Nat), s.engine = .ready → s.variant = .sched → n ≠ 0 → withinPolicy s n →
    ∃ x y : Block128, exec (.enc n) s = .next { s with
        left := x, right := y, cursor := 0, engine := .final, lastop := .enc, busy := false } ∧
      (x, y) = (List.range n).foldl
        (fun p r => (xor128 p.2 (roundFunction s.rfsel p.1 (roundKey s.w (Fin.ofNat 11 r))), p.1))
        (s.left, s.right)

/-- 42_feistel.md R194, R196, R198, R199: DEC n on the scheduled variant runs rounds n-1 down to 0 with
round keys KeyIndex(r) and sets CURSOR to KeyIndex(n-1). -/
def Obligations.DecScheduledRunsRoundsInFallingOrder : Prop :=
  ∀ (s : State) (n : Nat), s.variant = .sched →
    s.engine = .ready ∨ (s.engine = .final ∧ s.lastop = .enc) → n ≠ 0 → withinPolicy s n →
    ∃ (x y : Block128) (c : KeyNumber), exec (.dec n) s = .next { s with
        left := x, right := y, cursor := c, engine := .final, lastop := .dec, busy := false } ∧
      c.val = (n - 1) % 11 ∧
      (x, y) = (List.range n).reverse.foldl
        (fun p r => (p.2, xor128 p.1 (roundFunction s.rfsel p.2 (roundKey s.w (Fin.ofNat 11 r)))))
        (s.left, s.right)

/-- 42_feistel.md R193, 60_exceptions.md R245: ENC's faults in their order. -/
def Obligations.EncFaultsInTheStatedOrder : Prop :=
  ∀ (s : State) (n : Nat),
    (n < 65536 → encode (.enc n) = 0x22000000#32 + BitVec.ofNat 32 n) ∧
    (s.engine ≠ .ready → exec (.enc n) s =
      .next { s with err := true, ecode := .eseq, errcmd := s.pend, busy := false }) ∧
    (s.engine = .ready → exec (.enc 0) s =
      .next { s with err := true, ecode := .erounds, errcmd := s.pend, busy := false }) ∧
    (s.engine = .ready → s.variant = .sched → s.oorpol = .fault → 11 < n → exec (.enc n) s =
      .next { s with err := true, ecode := .eindex, errcmd := s.pend, busy := false })

/-- 42_feistel.md R190, R194, 60_exceptions.md R245: DEC's faults in their order. -/
def Obligations.DecFaultsInTheStatedOrder : Prop :=
  ∀ (s : State) (n : Nat),
    (n < 65536 → encode (.dec n) = 0x23000000#32 + BitVec.ofNat 32 n) ∧
    (s.engine = .idle → exec (.dec n) s =
      .next { s with err := true, ecode := .eseq, errcmd := s.pend, busy := false }) ∧
    (s.engine ≠ .idle → s.variant = .fixed → exec (.dec n) s =
      .next { s with err := true, ecode := .evariant, errcmd := s.pend, busy := false }) ∧
    (s.engine = .final → s.lastop ≠ .enc → s.variant = .sched → exec (.dec n) s =
      .next { s with err := true, ecode := .eseq, errcmd := s.pend, busy := false }) ∧
    (s.variant = .sched → s.engine = .ready ∨ (s.engine = .final ∧ s.lastop = .enc) →
      exec (.dec 0) s =
        .next { s with err := true, ecode := .erounds, errcmd := s.pend, busy := false }) ∧
    (s.variant = .sched → s.engine = .ready ∨ (s.engine = .final ∧ s.lastop = .enc) →
      s.oorpol = .fault → 11 < n → exec (.dec n) s =
        .next { s with err := true, ecode := .eindex, errcmd := s.pend, busy := false })

/-- 42_feistel.md R195: JOIN's word, result and frame, in every state. -/
def Obligations.JoinWritesTheHalvesToBlk : Prop :=
  encode .join = 0x24000000#32 ∧
  ∀ s : State, ∃ y : Block256, exec .join s = .next { s with blk := y, busy := false } ∧
    ∀ j : Fin 16, y[j.val] = s.left[j] ∧ y[16 + j.val] = s.right[j]

/-- 42_feistel.md R190, 70_reset_and_hazards.md R280: a command changes (STATE, VARIANT, LASTOP) only as
the table of transitions says; and a step of any agent changes them only by executing such a command or by
reset (steps and the reset turn: log entries 1, 5). -/
def Obligations.EngineStateChangesOnlyAsTheTableSays : Prop :=
  (∀ (i : Instr) (s t : State), exec i s = .next t →
    (t.engine, t.variant, t.lastop) ≠ (s.engine, s.variant, s.lastop) → engineTransition i s t) ∧
  ∀ s t : State, step s = .next t →
    (t.engine, t.variant, t.lastop) ≠ (s.engine, s.variant, s.lastop) →
    (engineMovesNext s ∧ ∃ i, decode s.pend = .ok i ∧ engineTransition i s t) ∨
    (s.schedule.head? = some .rstAssert ∧
      t.engine = .idle ∧ t.variant = .none ∧ t.lastop = .none)

/-- An inference of the spec's own (its 42_feistel.md R197, from R196 and R198): DEC n after ENC n on
the scheduled variant restores LEFT and RIGHT, for every round function, as long as the engine, W, RFSEL
and OORPOL are as ENC n left them. -/
def Obligations.DecUndoesEnc : Prop :=
  ∀ (s t u : State) (n : Nat), s.variant = .sched → s.err = false →
    exec (.enc n) s = .next t → t.err = false →
    u.left = t.left → u.right = t.right → u.engine = t.engine → u.variant = t.variant →
    u.lastop = t.lastop → u.w = t.w → u.rfsel = t.rfsel → u.oorpol = t.oorpol →
    ∃ v, exec (.dec n) u = .next v ∧ v.left = s.left ∧ v.right = s.right

/-- The corollary of the same inference (42_feistel.md R197, from R192, R195, R196, R198): INITS, ENC n,
DEC n, JOIN leaves BLK as it was. -/
def Obligations.EncryptDecryptJoinRestoresBlk : Prop :=
  ∀ (s : State) (n : Nat), s.keyvalid = true → n ≠ 0 → withinPolicy s n →
    ∃ t, execAll [.inits, .enc n, .dec n, .join] s = .next t ∧ t.blk = s.blk

/-- An inference of the spec's own (its 42_feistel.md R200, from R196): with FKEY = 0 and ADD8 the fixed
variant repeats with period 3. -/
def Obligations.ZeroKeyFixedVariantHasPeriodThree : Prop :=
  ∀ (s t u : State) (n : Nat), s.engine = .ready → s.variant = .fixed → s.rfsel = .add8 →
    (∀ j : Fin 16, s.fkey[j] = 0#8) → n ≠ 0 →
    exec (.enc n) s = .next t → exec (.enc (n + 3)) s = .next u →
    u.left = t.left ∧ u.right = t.right
end

