-- ==== Sys2Proof/Laws/Assembler.lean ====
section
/-!
SUPPORT. What reading a block from text can answer (30_encoding.md R98).
-/

namespace Sys2Proof.Machine

open Sys2Proof

/-- A list of bytes writes a block exactly if it has the block's length; byte j is then its entry j. -/
theorem blockOfBytes_eq_some {n : Nat} {bs : List Byte} {x : Vector Byte n} :
    blockOfBytes n bs = some x ↔ x.toList = bs := by
  unfold blockOfBytes
  constructor
  · intro h
    split at h
    · rename_i hl
      cases h
      apply List.ext_getElem
      · simp [hl]
      · intro j h1 h2
        simp [h2]
    · cases h
  · rintro rfl
    rw [if_pos (by simp)]
    congr 1
    apply Vector.ext
    intro j hj
    simp

/-- Hexadecimal text writes a block exactly if its bytes are the block's, in index order. -/
theorem hexBlock_eq_some {n : Nat} {cs : List Char} {x : Vector Byte n} :
    hexBlock n cs = some x ↔ hexBytes cs = some x.toList := by
  unfold hexBlock
  cases hexBytes cs with
  | none => simp
  | some bs => exact blockOfBytes_eq_some.trans (by simp [eq_comm])

/-- Characters write a block exactly if all are ASCII and their codes are its bytes, in index order. -/
theorem asciiBlock_eq_some {n : Nat} {cs : List Char} {x : Vector Byte n} :
    asciiBlock n cs = some x ↔ cs.mapM asciiCode = some x.toList := by
  unfold asciiBlock
  cases cs.mapM asciiCode with
  | none => simp
  | some bs => exact blockOfBytes_eq_some.trans (by simp [eq_comm])

end Sys2Proof.Machine
end

