-- ==== Sys2Proof/Laws/Bits.lean ====
section
/-!
SUPPORT. Bytes and words: what extraction, assembly, packing and unpacking do.
-/

namespace Sys2Proof.Machine

open Sys2Proof

theorem byteOf_toNat (k : Nat) (v : Word) : (byteOf k v).toNat = v.toNat / 2 ^ (8 * k) % 256 := by
  simp [byteOf, Nat.shiftRight_eq_div_pow]

theorem le32_toNat (b0 b1 b2 b3 : Byte) : (le32 b0 b1 b2 b3).toNat =
    b0.toNat + b1.toNat * 2 ^ 8 + b2.toNat * 2 ^ 16 + b3.toNat * 2 ^ 24 := by
  have h0 := b0.isLt; have h1 := b1.isLt; have h2 := b2.isLt; have h3 := b3.isLt
  simp only [le32, BitVec.toNat_ofNat]
  omega

theorem be32_toNat (b0 b1 b2 b3 : Byte) : (be32 b0 b1 b2 b3).toNat =
    b0.toNat * 2 ^ 24 + b1.toNat * 2 ^ 16 + b2.toNat * 2 ^ 8 + b3.toNat := by
  have h0 := b0.isLt; have h1 := b1.isLt; have h2 := b2.isLt; have h3 := b3.isLt
  simp only [be32, BitVec.toNat_ofNat]
  omega

/-- The four bytes of a little-endian word (00_scope.md R11). -/
theorem byteOf_le32 (b0 b1 b2 b3 : Byte) :
    byteOf 0 (le32 b0 b1 b2 b3) = b0 ∧ byteOf 1 (le32 b0 b1 b2 b3) = b1 ∧
      byteOf 2 (le32 b0 b1 b2 b3) = b2 ∧ byteOf 3 (le32 b0 b1 b2 b3) = b3 := by
  have h0 := b0.isLt; have h1 := b1.isLt; have h2 := b2.isLt; have h3 := b3.isLt
  refine ⟨?_, ?_, ?_, ?_⟩ <;> apply BitVec.eq_of_toNat_eq <;> rw [byteOf_toNat, le32_toNat] <;>
    omega

/-- The four bytes of a big-endian word (00_scope.md R11). -/
theorem byteOf_be32 (b0 b1 b2 b3 : Byte) :
    byteOf 3 (be32 b0 b1 b2 b3) = b0 ∧ byteOf 2 (be32 b0 b1 b2 b3) = b1 ∧
      byteOf 1 (be32 b0 b1 b2 b3) = b2 ∧ byteOf 0 (be32 b0 b1 b2 b3) = b3 := by
  have h0 := b0.isLt; have h1 := b1.isLt; have h2 := b2.isLt; have h3 := b3.isLt
  refine ⟨?_, ?_, ?_, ?_⟩ <;> apply BitVec.eq_of_toNat_eq <;> rw [byteOf_toNat, be32_toNat] <;>
    omega

/-- A word is the little-endian assembly of its bytes. -/
theorem le32_byteOf (v : Word) : le32 (byteOf 0 v) (byteOf 1 v) (byteOf 2 v) (byteOf 3 v) = v := by
  have h := v.isLt
  apply BitVec.eq_of_toNat_eq
  rw [le32_toNat]
  simp only [byteOf_toNat]
  omega

theorem blockByte_eq {n : Nat} (x : Vector Byte n) (j : Nat) (h : j < n) : blockByte x j = x[j] := by
  simp [blockByte, h]

/-- Byte j of a block stands in its lane of word j / 4 (20_memory.md R62). -/
theorem byteOf_blockWord {n : Nat} (x : Vector Byte n) (j : Nat) (h : j < n) :
    byteOf (j % 4) (blockWord x (j / 4)) = x[j] := by
  have hb := byteOf_le32 (blockByte x (4 * (j / 4))) (blockByte x (4 * (j / 4) + 1))
    (blockByte x (4 * (j / 4) + 2)) (blockByte x (4 * (j / 4) + 3))
  rw [← blockByte_eq x j h]
  have hj : j % 4 = 0 ∨ j % 4 = 1 ∨ j % 4 = 2 ∨ j % 4 = 3 := by omega
  rcases hj with hj | hj | hj | hj <;> rw [hj]
  · rw [show j = 4 * (j / 4) by omega]; simpa [blockWord] using hb.1
  · rw [show j = 4 * (j / 4) + 1 by omega, show (4 * (j / 4) + 1) / 4 = j / 4 by omega]
    exact hb.2.1
  · rw [show j = 4 * (j / 4) + 2 by omega, show (4 * (j / 4) + 2) / 4 = j / 4 by omega]
    exact hb.2.2.1
  · rw [show j = 4 * (j / 4) + 3 by omega, show (4 * (j / 4) + 3) / 4 = j / 4 by omega]
    exact hb.2.2.2

/-- A word write sets its four bytes and keeps the others (20_memory.md R62). -/
theorem setBlockWord_getElem {n : Nat} (x : Vector Byte n) (k : Nat) (v : Word) (j : Nat)
    (h : j < n) :
    (setBlockWord x k v)[j] = if j / 4 = k then byteOf (j % 4) v else x[j] := by
  simp [setBlockWord]

/-- Reading back the word just written (20_memory.md R62, R67, R68). -/
theorem blockWord_setBlockWord_same {n : Nat} (x : Vector Byte n) (k : Nat) (v : Word)
    (h : 4 * k + 3 < n) : blockWord (setBlockWord x k v) k = v := by
  rw [← le32_byteOf v]
  unfold blockWord
  rw [blockByte_eq _ _ (by omega), blockByte_eq _ _ (by omega), blockByte_eq _ _ (by omega),
    blockByte_eq _ _ h]
  simp only [setBlockWord_getElem, le32_byteOf]
  rw [if_pos (by omega), if_pos (by omega), if_pos (by omega), if_pos (by omega),
    show (4 * k) % 4 = 0 by omega, show (4 * k + 1) % 4 = 1 by omega,
    show (4 * k + 2) % 4 = 2 by omega, show (4 * k + 3) % 4 = 3 by omega, le32_byteOf]

/-- The other words of the block read as before (20_memory.md R62, R67). -/
theorem blockWord_setBlockWord_other {n : Nat} (x : Vector Byte n) (k m : Nat) (v : Word)
    (h : 4 * m + 3 < n) (hkm : m ≠ k) : blockWord (setBlockWord x k v) m = blockWord x m := by
  unfold blockWord
  rw [blockByte_eq _ _ (by omega), blockByte_eq _ _ (by omega), blockByte_eq _ _ (by omega),
    blockByte_eq _ _ h, blockByte_eq _ _ (by omega), blockByte_eq _ _ (by omega),
    blockByte_eq _ _ (by omega), blockByte_eq _ _ h]
  simp only [setBlockWord_getElem]
  rw [if_neg (by omega), if_neg (by omega), if_neg (by omega), if_neg (by omega)]

end Sys2Proof.Machine
end

