-- ==== Sys2Proof/Laws/Decode.lean ====
section
/-!
SUPPORT. The fields of a command word as numbers, the fields of an encoded command, and what the
decoder accepts.
-/

namespace Sys2Proof

theorem opcField_toNat (v : Word) : (opcField v).toNat = v.toNat / 2 ^ 24 := by
  have h := v.isLt
  simp [opcField, Nat.shiftRight_eq_div_pow]
  omega

theorem rsvField_toNat (v : Word) : (rsvField v).toNat = v.toNat / 2 ^ 16 % 256 := by
  simp [rsvField, Nat.shiftRight_eq_div_pow]

theorem imm16Field_toNat (v : Word) : (imm16Field v).toNat = v.toNat % 2 ^ 16 := by
  simp [imm16Field]

/-- A word is its three fields (30_encoding.md R90). -/
theorem word_eq_fields (v : Word) :
    v.toNat = (opcField v).toNat * 2 ^ 24 + (rsvField v).toNat * 2 ^ 16 + (imm16Field v).toNat := by
  have h := v.isLt
  rw [opcField_toNat, rsvField_toNat, imm16Field_toNat]
  omega

/-- A well-formed command's operand fits IMM16 (30_encoding.md R91). -/
theorem immediate_lt {i : Instr} (h : i.wellFormed = true) : i.immediate < 2 ^ 16 := by
  cases i <;> simp_all [Instr.wellFormed, Instr.immediate]
  omega

theorem encode_toNat {i : Instr} (h : i.wellFormed = true) :
    (encode i).toNat = i.opcode.toNat * 2 ^ 24 + i.immediate := by
  have hi := immediate_lt h
  have ho := i.opcode.isLt
  simp only [encode, BitVec.toNat_ofNat]
  omega

theorem opcField_encode {i : Instr} (h : i.wellFormed = true) : opcField (encode i) = i.opcode := by
  have hi := immediate_lt h
  apply BitVec.eq_of_toNat_eq
  rw [opcField_toNat, encode_toNat h]
  omega

theorem rsvField_encode {i : Instr} (h : i.wellFormed = true) : rsvField (encode i) = 0#8 := by
  have hi := immediate_lt h
  apply BitVec.eq_of_toNat_eq
  rw [rsvField_toNat, encode_toNat h]
  simp only [BitVec.toNat_ofNat]
  omega

theorem imm16Field_encode {i : Instr} (h : i.wellFormed = true) :
    imm16Field (encode i) = BitVec.ofNat 16 i.immediate := by
  have hi := immediate_lt h
  apply BitVec.eq_of_toNat_eq
  rw [imm16Field_toNat, encode_toNat h]
  simp only [BitVec.toNat_ofNat]
  omega

theorem decodeNoOperand_ok {m : BitVec 16} {i j : Instr} (h : decodeNoOperand m i = .ok j) :
    m = 0#16 ∧ j = i := by
  unfold decodeNoOperand at h
  split at h
  · cases h; exact ⟨‹_›, rfl⟩
  · cases h

theorem decodeSbox_ok {m : BitVec 16} {j : Instr} (h : decodeSbox m = .ok j) :
    m.toNat < 256 ∧ j = .sbox m.toNat := by
  unfold decodeSbox at h
  split at h
  case isTrue hm =>
    have hn := congrArg BitVec.toNat hm
    have hlt := m.isLt
    simp [Nat.shiftRight_eq_div_pow] at hn
    cases h
    have : m.toNat < 256 := by omega
    exact ⟨this, by simp [Nat.mod_eq_of_lt this]⟩
  case isFalse => cases h

/-- Everything decodeOperand accepts: the row of OPC, with an operand its field admits (30_encoding.md
R91, R93, R94). -/
theorem decodeOperand_ok {o : BitVec 8} {m : BitVec 16} {i : Instr} (h : decodeOperand o m = .ok i) :
    i.opcode = o ∧ i.immediate = m.toNat ∧ i.wellFormed = true := by
  have hm := m.isLt
  have ho : ∀ n, o.toNat = n → o = BitVec.ofNat 8 n := fun n hn => by simp [← hn]
  unfold decodeOperand at h
  split at h <;>
    first
    | (obtain ⟨hz, rfl⟩ := decodeNoOperand_ok h
       exact ⟨(ho _ ‹_›).symm, by rw [hz]; rfl, rfl⟩)
    | (obtain ⟨hz, rfl⟩ := decodeSbox_ok h
       exact ⟨(ho _ ‹_›).symm, rfl, by simpa [Instr.wellFormed] using hz⟩)
    | (cases h
       exact ⟨(ho _ ‹_›).symm, rfl, by simpa [Instr.wellFormed] using hm⟩)
    | cases h

/-- The row of a command's own OPC, with its operand as IMM16, is the command (30_encoding.md R93). -/
theorem decodeOperand_self {i : Instr} (h : i.wellFormed = true) :
    decodeOperand i.opcode (BitVec.ofNat 16 i.immediate) = .ok i := by
  cases i with
  | setpos n | getkey n | enc n | dec n =>
    have hn : n < 65536 := by simpa [Instr.wellFormed] using h
    simp [decodeOperand, Instr.opcode, Instr.immediate, Nat.mod_eq_of_lt hn]
  | sbox n =>
    have hn : n < 256 := by simpa [Instr.wellFormed] using h
    have hh : (BitVec.ofNat 16 n).extractLsb' 8 8 = 0#8 := by
      apply BitVec.eq_of_toNat_eq
      simp [Nat.shiftRight_eq_div_pow]
      omega
    have hl : ((BitVec.ofNat 16 n).extractLsb' 0 8).toNat = n := by
      simp
      omega
    simp only [Instr.opcode, Instr.immediate]
    show decodeSbox (BitVec.ofNat 16 n) = _
    unfold decodeSbox
    rw [if_pos hh, hl]
  | _ => rfl

theorem opcode_known (i : Instr) : i.opcode.toNat ∈ knownOpcodes := by
  cases i <;> simp [Instr.opcode, knownOpcodes]

/-- Everything decode accepts (30_encoding.md R92, R94). -/
theorem decode_ok {v : Word} {i : Instr} (h : decode v = .ok i) :
    opcField v = i.opcode ∧ rsvField v = 0#8 ∧ (imm16Field v).toNat = i.immediate ∧
      i.wellFormed = true := by
  unfold decode at h
  split at h
  · cases h
  · split at h
    · cases h
    · obtain ⟨h1, h2, h3⟩ := decodeOperand_ok h
      exact ⟨h1.symm, by simpa using ‹¬rsvField v ≠ 0#8›, h2.symm, h3⟩

/-- A mask of all ones keeps every bit. -/
theorem and_mask_full (v : Word) : v &&& 0xFFFFFFFF#32 = v := by
  rw [show (0xFFFFFFFF#32 : Word) = BitVec.allOnes 32 by decide, BitVec.and_allOnes]

/-- A mask that clears the k low bits. -/
theorem and_mask_toNat (v : Word) (k : Nat) (hk : k ≤ 32) :
    (v &&& BitVec.ofNat 32 (2 ^ 32 - 2 ^ k)).toNat = v.toNat / 2 ^ k * 2 ^ k := by
  have hv := v.isLt
  have hpow : 2 ^ k ≤ 2 ^ 32 := Nat.pow_le_pow_right (by decide) hk
  have hpos : 0 < 2 ^ k := Nat.two_pow_pos k
  rw [BitVec.toNat_and, BitVec.toNat_ofNat, Nat.mod_eq_of_lt (by omega)]
  apply Nat.eq_of_testBit_eq
  intro i
  rw [Nat.testBit_and, Nat.testBit_mul_two_pow, Nat.testBit_div_two_pow,
    show 2 ^ 32 - 2 ^ k = (2 ^ (32 - k) - 1) * 2 ^ k by
      rw [Nat.sub_mul, ← Nat.pow_add, Nat.sub_add_cancel hk, Nat.one_mul],
    Nat.testBit_mul_two_pow, Nat.testBit_two_pow_sub_one]
  by_cases h : k ≤ i
  · by_cases h2 : i < 32
    · simp [h, show i - k < 32 - k by omega]
    · have : v.toNat.testBit i = false :=
        Nat.testBit_lt_two_pow (lt_of_lt_of_le hv (Nat.pow_le_pow_right (by decide) (by omega)))
      simp [h, this]
  · simp [h]

/-- A row with a 16-bit operand matches on the upper 16 bits (30_encoding.md R92, R93). -/
theorem and_mask_upper16 (v m : Word) (hm : m.toNat % 2 ^ 16 = 0) :
    v &&& 0xFFFF0000#32 = m ↔ v.toNat / 2 ^ 16 = m.toNat / 2 ^ 16 := by
  have h := and_mask_toNat v 16 (by decide)
  rw [← BitVec.toNat_inj, show (0xFFFF0000#32 : Word) = BitVec.ofNat 32 (2 ^ 32 - 2 ^ 16) by decide, h]
  omega

/-- A row with an 8-bit operand matches on the upper 24 bits (30_encoding.md R92, R93). -/
theorem and_mask_upper24 (v m : Word) (hm : m.toNat % 2 ^ 8 = 0) :
    v &&& 0xFFFFFF00#32 = m ↔ v.toNat / 2 ^ 8 = m.toNat / 2 ^ 8 := by
  have h := and_mask_toNat v 8 (by decide)
  rw [← BitVec.toNat_inj, show (0xFFFFFF00#32 : Word) = BitVec.ofNat 32 (2 ^ 32 - 2 ^ 8) by decide, h]
  omega

end Sys2Proof
end

