-- ==== Sys2Proof/Laws/State.lean ====
section
/-!
SUPPORT. What each shared update of State leaves in each field, so that no proof unfolds a record
update. Every lemma is true by rfl.
-/

namespace Sys2Proof.Machine

open Sys2Proof

/-! ### complete -/

@[simp] theorem complete_oorpol (s : State) : (complete s).oorpol = s.oorpol := rfl
@[simp] theorem complete_rfsel (s : State) : (complete s).rfsel = s.rfsel := rfl
@[simp] theorem complete_errie (s : State) : (complete s).errie = s.errie := rfl
@[simp] theorem complete_errcmd (s : State) : (complete s).errcmd = s.errcmd := rfl
@[simp] theorem complete_rootkey (s : State) : (complete s).rootkey = s.rootkey := rfl
@[simp] theorem complete_fkey (s : State) : (complete s).fkey = s.fkey := rfl
@[simp] theorem complete_blk (s : State) : (complete s).blk = s.blk := rfl
@[simp] theorem complete_left (s : State) : (complete s).left = s.left := rfl
@[simp] theorem complete_right (s : State) : (complete s).right = s.right := rfl
@[simp] theorem complete_opa (s : State) : (complete s).opa = s.opa := rfl
@[simp] theorem complete_opb (s : State) : (complete s).opb = s.opb := rfl
@[simp] theorem complete_res (s : State) : (complete s).res = s.res := rfl
@[simp] theorem complete_rkout (s : State) : (complete s).rkout = s.rkout := rfl
@[simp] theorem complete_byteout (s : State) : (complete s).byteout = s.byteout := rfl
@[simp] theorem complete_w (s : State) : (complete s).w = s.w := rfl
@[simp] theorem complete_cursor (s : State) : (complete s).cursor = s.cursor := rfl
@[simp] theorem complete_keyvalid (s : State) : (complete s).keyvalid = s.keyvalid := rfl
@[simp] theorem complete_engine (s : State) : (complete s).engine = s.engine := rfl
@[simp] theorem complete_variant (s : State) : (complete s).variant = s.variant := rfl
@[simp] theorem complete_lastop (s : State) : (complete s).lastop = s.lastop := rfl
@[simp] theorem complete_busy (s : State) : (complete s).busy = false := rfl
@[simp] theorem complete_pend (s : State) : (complete s).pend = s.pend := rfl
@[simp] theorem complete_err (s : State) : (complete s).err = s.err := rfl
@[simp] theorem complete_ecode (s : State) : (complete s).ecode = s.ecode := rfl
@[simp] theorem complete_ovr (s : State) : (complete s).ovr = s.ovr := rfl
@[simp] theorem complete_rst (s : State) : (complete s).rst = s.rst := rfl
@[simp] theorem complete_schedule (s : State) : (complete s).schedule = s.schedule := rfl
@[simp] theorem complete_host (s : State) : (complete s).host = s.host := rfl
@[simp] theorem complete_reads (s : State) : (complete s).reads = s.reads := rfl
@[simp] theorem complete_draws (s : State) : (complete s).draws = s.draws := rfl

/-! ### raiseFault -/

@[simp] theorem raiseFault_oorpol (c : FaultCode) (s : State) :
    (raiseFault c s).oorpol = s.oorpol := rfl
@[simp] theorem raiseFault_rfsel (c : FaultCode) (s : State) :
    (raiseFault c s).rfsel = s.rfsel := rfl
@[simp] theorem raiseFault_errie (c : FaultCode) (s : State) :
    (raiseFault c s).errie = s.errie := rfl
@[simp] theorem raiseFault_errcmd (c : FaultCode) (s : State) :
    (raiseFault c s).errcmd = s.pend := rfl
@[simp] theorem raiseFault_rootkey (c : FaultCode) (s : State) :
    (raiseFault c s).rootkey = s.rootkey := rfl
@[simp] theorem raiseFault_fkey (c : FaultCode) (s : State) : (raiseFault c s).fkey = s.fkey := rfl
@[simp] theorem raiseFault_blk (c : FaultCode) (s : State) : (raiseFault c s).blk = s.blk := rfl
@[simp] theorem raiseFault_left (c : FaultCode) (s : State) : (raiseFault c s).left = s.left := rfl
@[simp] theorem raiseFault_right (c : FaultCode) (s : State) :
    (raiseFault c s).right = s.right := rfl
@[simp] theorem raiseFault_opa (c : FaultCode) (s : State) : (raiseFault c s).opa = s.opa := rfl
@[simp] theorem raiseFault_opb (c : FaultCode) (s : State) : (raiseFault c s).opb = s.opb := rfl
@[simp] theorem raiseFault_res (c : FaultCode) (s : State) : (raiseFault c s).res = s.res := rfl
@[simp] theorem raiseFault_rkout (c : FaultCode) (s : State) :
    (raiseFault c s).rkout = s.rkout := rfl
@[simp] theorem raiseFault_byteout (c : FaultCode) (s : State) :
    (raiseFault c s).byteout = s.byteout := rfl
@[simp] theorem raiseFault_w (c : FaultCode) (s : State) : (raiseFault c s).w = s.w := rfl
@[simp] theorem raiseFault_cursor (c : FaultCode) (s : State) :
    (raiseFault c s).cursor = s.cursor := rfl
@[simp] theorem raiseFault_keyvalid (c : FaultCode) (s : State) :
    (raiseFault c s).keyvalid = s.keyvalid := rfl
@[simp] theorem raiseFault_engine (c : FaultCode) (s : State) :
    (raiseFault c s).engine = s.engine := rfl
@[simp] theorem raiseFault_variant (c : FaultCode) (s : State) :
    (raiseFault c s).variant = s.variant := rfl
@[simp] theorem raiseFault_lastop (c : FaultCode) (s : State) :
    (raiseFault c s).lastop = s.lastop := rfl
@[simp] theorem raiseFault_busy (c : FaultCode) (s : State) : (raiseFault c s).busy = false := rfl
@[simp] theorem raiseFault_pend (c : FaultCode) (s : State) : (raiseFault c s).pend = s.pend := rfl
@[simp] theorem raiseFault_err (c : FaultCode) (s : State) : (raiseFault c s).err = true := rfl
@[simp] theorem raiseFault_ecode (c : FaultCode) (s : State) : (raiseFault c s).ecode = c := rfl
@[simp] theorem raiseFault_ovr (c : FaultCode) (s : State) : (raiseFault c s).ovr = s.ovr := rfl
@[simp] theorem raiseFault_rst (c : FaultCode) (s : State) : (raiseFault c s).rst = s.rst := rfl
@[simp] theorem raiseFault_schedule (c : FaultCode) (s : State) :
    (raiseFault c s).schedule = s.schedule := rfl
@[simp] theorem raiseFault_host (c : FaultCode) (s : State) : (raiseFault c s).host = s.host := rfl
@[simp] theorem raiseFault_reads (c : FaultCode) (s : State) :
    (raiseFault c s).reads = s.reads := rfl
@[simp] theorem raiseFault_draws (c : FaultCode) (s : State) :
    (raiseFault c s).draws = s.draws := rfl

/-! ### clearFault -/

@[simp] theorem clearFault_oorpol (s : State) : (clearFault s).oorpol = s.oorpol := rfl
@[simp] theorem clearFault_rfsel (s : State) : (clearFault s).rfsel = s.rfsel := rfl
@[simp] theorem clearFault_errie (s : State) : (clearFault s).errie = s.errie := rfl
@[simp] theorem clearFault_errcmd (s : State) : (clearFault s).errcmd = s.errcmd := rfl
@[simp] theorem clearFault_rootkey (s : State) : (clearFault s).rootkey = s.rootkey := rfl
@[simp] theorem clearFault_fkey (s : State) : (clearFault s).fkey = s.fkey := rfl
@[simp] theorem clearFault_blk (s : State) : (clearFault s).blk = s.blk := rfl
@[simp] theorem clearFault_left (s : State) : (clearFault s).left = s.left := rfl
@[simp] theorem clearFault_right (s : State) : (clearFault s).right = s.right := rfl
@[simp] theorem clearFault_opa (s : State) : (clearFault s).opa = s.opa := rfl
@[simp] theorem clearFault_opb (s : State) : (clearFault s).opb = s.opb := rfl
@[simp] theorem clearFault_res (s : State) : (clearFault s).res = s.res := rfl
@[simp] theorem clearFault_rkout (s : State) : (clearFault s).rkout = s.rkout := rfl
@[simp] theorem clearFault_byteout (s : State) : (clearFault s).byteout = s.byteout := rfl
@[simp] theorem clearFault_w (s : State) : (clearFault s).w = s.w := rfl
@[simp] theorem clearFault_cursor (s : State) : (clearFault s).cursor = s.cursor := rfl
@[simp] theorem clearFault_keyvalid (s : State) : (clearFault s).keyvalid = s.keyvalid := rfl
@[simp] theorem clearFault_engine (s : State) : (clearFault s).engine = s.engine := rfl
@[simp] theorem clearFault_variant (s : State) : (clearFault s).variant = s.variant := rfl
@[simp] theorem clearFault_lastop (s : State) : (clearFault s).lastop = s.lastop := rfl
@[simp] theorem clearFault_busy (s : State) : (clearFault s).busy = s.busy := rfl
@[simp] theorem clearFault_pend (s : State) : (clearFault s).pend = s.pend := rfl
@[simp] theorem clearFault_err (s : State) : (clearFault s).err = false := rfl
@[simp] theorem clearFault_ecode (s : State) : (clearFault s).ecode = .none := rfl
@[simp] theorem clearFault_ovr (s : State) : (clearFault s).ovr = false := rfl
@[simp] theorem clearFault_rst (s : State) : (clearFault s).rst = s.rst := rfl
@[simp] theorem clearFault_schedule (s : State) : (clearFault s).schedule = s.schedule := rfl
@[simp] theorem clearFault_host (s : State) : (clearFault s).host = s.host := rfl
@[simp] theorem clearFault_reads (s : State) : (clearFault s).reads = s.reads := rfl
@[simp] theorem clearFault_draws (s : State) : (clearFault s).draws = s.draws := rfl

/-! ### assertReset -/

@[simp] theorem assertReset_oorpol (s : State) : (assertReset s).oorpol = State.reset.oorpol := rfl
@[simp] theorem assertReset_rfsel (s : State) : (assertReset s).rfsel = State.reset.rfsel := rfl
@[simp] theorem assertReset_errie (s : State) : (assertReset s).errie = State.reset.errie := rfl
@[simp] theorem assertReset_errcmd (s : State) : (assertReset s).errcmd = State.reset.errcmd := rfl
@[simp] theorem assertReset_rootkey (s : State) :
    (assertReset s).rootkey = State.reset.rootkey := rfl
@[simp] theorem assertReset_fkey (s : State) : (assertReset s).fkey = State.reset.fkey := rfl
@[simp] theorem assertReset_blk (s : State) : (assertReset s).blk = State.reset.blk := rfl
@[simp] theorem assertReset_left (s : State) : (assertReset s).left = State.reset.left := rfl
@[simp] theorem assertReset_right (s : State) : (assertReset s).right = State.reset.right := rfl
@[simp] theorem assertReset_opa (s : State) : (assertReset s).opa = State.reset.opa := rfl
@[simp] theorem assertReset_opb (s : State) : (assertReset s).opb = State.reset.opb := rfl
@[simp] theorem assertReset_res (s : State) : (assertReset s).res = State.reset.res := rfl
@[simp] theorem assertReset_rkout (s : State) : (assertReset s).rkout = State.reset.rkout := rfl
@[simp] theorem assertReset_byteout (s : State) :
    (assertReset s).byteout = State.reset.byteout := rfl
@[simp] theorem assertReset_w (s : State) : (assertReset s).w = State.reset.w := rfl
@[simp] theorem assertReset_cursor (s : State) : (assertReset s).cursor = State.reset.cursor := rfl
@[simp] theorem assertReset_keyvalid (s : State) :
    (assertReset s).keyvalid = State.reset.keyvalid := rfl
@[simp] theorem assertReset_engine (s : State) : (assertReset s).engine = State.reset.engine := rfl
@[simp] theorem assertReset_variant (s : State) :
    (assertReset s).variant = State.reset.variant := rfl
@[simp] theorem assertReset_lastop (s : State) : (assertReset s).lastop = State.reset.lastop := rfl
@[simp] theorem assertReset_busy (s : State) : (assertReset s).busy = State.reset.busy := rfl
@[simp] theorem assertReset_pend (s : State) : (assertReset s).pend = State.reset.pend := rfl
@[simp] theorem assertReset_err (s : State) : (assertReset s).err = State.reset.err := rfl
@[simp] theorem assertReset_ecode (s : State) : (assertReset s).ecode = State.reset.ecode := rfl
@[simp] theorem assertReset_ovr (s : State) : (assertReset s).ovr = State.reset.ovr := rfl
@[simp] theorem assertReset_rst (s : State) : (assertReset s).rst = true := rfl
@[simp] theorem assertReset_schedule (s : State) : (assertReset s).schedule = s.schedule := rfl
@[simp] theorem assertReset_host (s : State) : (assertReset s).host = s.host := rfl
@[simp] theorem assertReset_reads (s : State) : (assertReset s).reads = s.reads := rfl
@[simp] theorem assertReset_draws (s : State) : (assertReset s).draws = s.draws := rfl

/-! ### releaseReset -/

@[simp] theorem releaseReset_oorpol (s : State) : (releaseReset s).oorpol = s.oorpol := rfl
@[simp] theorem releaseReset_rfsel (s : State) : (releaseReset s).rfsel = s.rfsel := rfl
@[simp] theorem releaseReset_errie (s : State) : (releaseReset s).errie = s.errie := rfl
@[simp] theorem releaseReset_errcmd (s : State) : (releaseReset s).errcmd = s.errcmd := rfl
@[simp] theorem releaseReset_rootkey (s : State) : (releaseReset s).rootkey = s.rootkey := rfl
@[simp] theorem releaseReset_fkey (s : State) : (releaseReset s).fkey = s.fkey := rfl
@[simp] theorem releaseReset_blk (s : State) : (releaseReset s).blk = s.blk := rfl
@[simp] theorem releaseReset_left (s : State) : (releaseReset s).left = s.left := rfl
@[simp] theorem releaseReset_right (s : State) : (releaseReset s).right = s.right := rfl
@[simp] theorem releaseReset_opa (s : State) : (releaseReset s).opa = s.opa := rfl
@[simp] theorem releaseReset_opb (s : State) : (releaseReset s).opb = s.opb := rfl
@[simp] theorem releaseReset_res (s : State) : (releaseReset s).res = s.res := rfl
@[simp] theorem releaseReset_rkout (s : State) : (releaseReset s).rkout = s.rkout := rfl
@[simp] theorem releaseReset_byteout (s : State) : (releaseReset s).byteout = s.byteout := rfl
@[simp] theorem releaseReset_w (s : State) : (releaseReset s).w = s.w := rfl
@[simp] theorem releaseReset_cursor (s : State) : (releaseReset s).cursor = s.cursor := rfl
@[simp] theorem releaseReset_keyvalid (s : State) : (releaseReset s).keyvalid = s.keyvalid := rfl
@[simp] theorem releaseReset_engine (s : State) : (releaseReset s).engine = s.engine := rfl
@[simp] theorem releaseReset_variant (s : State) : (releaseReset s).variant = s.variant := rfl
@[simp] theorem releaseReset_lastop (s : State) : (releaseReset s).lastop = s.lastop := rfl
@[simp] theorem releaseReset_busy (s : State) : (releaseReset s).busy = s.busy := rfl
@[simp] theorem releaseReset_pend (s : State) : (releaseReset s).pend = s.pend := rfl
@[simp] theorem releaseReset_err (s : State) : (releaseReset s).err = s.err := rfl
@[simp] theorem releaseReset_ecode (s : State) : (releaseReset s).ecode = s.ecode := rfl
@[simp] theorem releaseReset_ovr (s : State) : (releaseReset s).ovr = s.ovr := rfl
@[simp] theorem releaseReset_rst (s : State) : (releaseReset s).rst = false := rfl
@[simp] theorem releaseReset_schedule (s : State) : (releaseReset s).schedule = s.schedule := rfl
@[simp] theorem releaseReset_host (s : State) : (releaseReset s).host = s.host := rfl
@[simp] theorem releaseReset_reads (s : State) : (releaseReset s).reads = s.reads := rfl
@[simp] theorem releaseReset_draws (s : State) : (releaseReset s).draws = s.draws := rfl

/-! ### writeCtrl -/

@[simp] theorem writeCtrl_oorpol (v : Word) (s : State) :
    (writeCtrl v s).oorpol = (if v.getLsbD 0 then .fault else .wrap) := rfl
@[simp] theorem writeCtrl_rfsel (v : Word) (s : State) :
    (writeCtrl v s).rfsel = (if v.getLsbD 1 then .ext else .add8) := rfl
@[simp] theorem writeCtrl_errie (v : Word) (s : State) : (writeCtrl v s).errie = v.getLsbD 2 := rfl
@[simp] theorem writeCtrl_errcmd (v : Word) (s : State) : (writeCtrl v s).errcmd = s.errcmd := rfl
@[simp] theorem writeCtrl_rootkey (v : Word) (s : State) :
    (writeCtrl v s).rootkey = s.rootkey := rfl
@[simp] theorem writeCtrl_fkey (v : Word) (s : State) : (writeCtrl v s).fkey = s.fkey := rfl
@[simp] theorem writeCtrl_blk (v : Word) (s : State) : (writeCtrl v s).blk = s.blk := rfl
@[simp] theorem writeCtrl_left (v : Word) (s : State) : (writeCtrl v s).left = s.left := rfl
@[simp] theorem writeCtrl_right (v : Word) (s : State) : (writeCtrl v s).right = s.right := rfl
@[simp] theorem writeCtrl_opa (v : Word) (s : State) : (writeCtrl v s).opa = s.opa := rfl
@[simp] theorem writeCtrl_opb (v : Word) (s : State) : (writeCtrl v s).opb = s.opb := rfl
@[simp] theorem writeCtrl_res (v : Word) (s : State) : (writeCtrl v s).res = s.res := rfl
@[simp] theorem writeCtrl_rkout (v : Word) (s : State) : (writeCtrl v s).rkout = s.rkout := rfl
@[simp] theorem writeCtrl_byteout (v : Word) (s : State) :
    (writeCtrl v s).byteout = s.byteout := rfl
@[simp] theorem writeCtrl_w (v : Word) (s : State) : (writeCtrl v s).w = s.w := rfl
@[simp] theorem writeCtrl_cursor (v : Word) (s : State) : (writeCtrl v s).cursor = s.cursor := rfl
@[simp] theorem writeCtrl_keyvalid (v : Word) (s : State) :
    (writeCtrl v s).keyvalid = s.keyvalid := rfl
@[simp] theorem writeCtrl_engine (v : Word) (s : State) : (writeCtrl v s).engine = s.engine := rfl
@[simp] theorem writeCtrl_variant (v : Word) (s : State) :
    (writeCtrl v s).variant = s.variant := rfl
@[simp] theorem writeCtrl_lastop (v : Word) (s : State) : (writeCtrl v s).lastop = s.lastop := rfl
@[simp] theorem writeCtrl_busy (v : Word) (s : State) : (writeCtrl v s).busy = s.busy := rfl
@[simp] theorem writeCtrl_pend (v : Word) (s : State) : (writeCtrl v s).pend = s.pend := rfl
@[simp] theorem writeCtrl_err (v : Word) (s : State) : (writeCtrl v s).err = s.err := rfl
@[simp] theorem writeCtrl_ecode (v : Word) (s : State) : (writeCtrl v s).ecode = s.ecode := rfl
@[simp] theorem writeCtrl_ovr (v : Word) (s : State) : (writeCtrl v s).ovr = s.ovr := rfl
@[simp] theorem writeCtrl_rst (v : Word) (s : State) : (writeCtrl v s).rst = s.rst := rfl
@[simp] theorem writeCtrl_schedule (v : Word) (s : State) :
    (writeCtrl v s).schedule = s.schedule := rfl
@[simp] theorem writeCtrl_host (v : Word) (s : State) : (writeCtrl v s).host = s.host := rfl
@[simp] theorem writeCtrl_reads (v : Word) (s : State) : (writeCtrl v s).reads = s.reads := rfl
@[simp] theorem writeCtrl_draws (v : Word) (s : State) : (writeCtrl v s).draws = s.draws := rfl

/-! ### encPass -/

@[simp] theorem encPass_oorpol (n : Nat) (s : State) : (encPass n s).oorpol = s.oorpol := rfl
@[simp] theorem encPass_rfsel (n : Nat) (s : State) : (encPass n s).rfsel = s.rfsel := rfl
@[simp] theorem encPass_errie (n : Nat) (s : State) : (encPass n s).errie = s.errie := rfl
@[simp] theorem encPass_errcmd (n : Nat) (s : State) : (encPass n s).errcmd = s.errcmd := rfl
@[simp] theorem encPass_rootkey (n : Nat) (s : State) : (encPass n s).rootkey = s.rootkey := rfl
@[simp] theorem encPass_fkey (n : Nat) (s : State) : (encPass n s).fkey = s.fkey := rfl
@[simp] theorem encPass_blk (n : Nat) (s : State) : (encPass n s).blk = s.blk := rfl
@[simp] theorem encPass_left (n : Nat) (s : State) :
    (encPass n s).left = (encRounds s.rfsel (engineKey s) n (s.left, s.right)).1 := rfl
@[simp] theorem encPass_right (n : Nat) (s : State) :
    (encPass n s).right = (encRounds s.rfsel (engineKey s) n (s.left, s.right)).2 := rfl
@[simp] theorem encPass_opa (n : Nat) (s : State) : (encPass n s).opa = s.opa := rfl
@[simp] theorem encPass_opb (n : Nat) (s : State) : (encPass n s).opb = s.opb := rfl
@[simp] theorem encPass_res (n : Nat) (s : State) : (encPass n s).res = s.res := rfl
@[simp] theorem encPass_rkout (n : Nat) (s : State) : (encPass n s).rkout = s.rkout := rfl
@[simp] theorem encPass_byteout (n : Nat) (s : State) : (encPass n s).byteout = s.byteout := rfl
@[simp] theorem encPass_w (n : Nat) (s : State) : (encPass n s).w = s.w := rfl
@[simp] theorem encPass_cursor (n : Nat) (s : State) :
    (encPass n s).cursor = (if s.variant = .sched then 0 else s.cursor) := rfl
@[simp] theorem encPass_keyvalid (n : Nat) (s : State) : (encPass n s).keyvalid = s.keyvalid := rfl
@[simp] theorem encPass_engine (n : Nat) (s : State) : (encPass n s).engine = .final := rfl
@[simp] theorem encPass_variant (n : Nat) (s : State) : (encPass n s).variant = s.variant := rfl
@[simp] theorem encPass_lastop (n : Nat) (s : State) : (encPass n s).lastop = .enc := rfl
@[simp] theorem encPass_busy (n : Nat) (s : State) : (encPass n s).busy = s.busy := rfl
@[simp] theorem encPass_pend (n : Nat) (s : State) : (encPass n s).pend = s.pend := rfl
@[simp] theorem encPass_err (n : Nat) (s : State) : (encPass n s).err = s.err := rfl
@[simp] theorem encPass_ecode (n : Nat) (s : State) : (encPass n s).ecode = s.ecode := rfl
@[simp] theorem encPass_ovr (n : Nat) (s : State) : (encPass n s).ovr = s.ovr := rfl
@[simp] theorem encPass_rst (n : Nat) (s : State) : (encPass n s).rst = s.rst := rfl
@[simp] theorem encPass_schedule (n : Nat) (s : State) : (encPass n s).schedule = s.schedule := rfl
@[simp] theorem encPass_host (n : Nat) (s : State) : (encPass n s).host = s.host := rfl
@[simp] theorem encPass_reads (n : Nat) (s : State) : (encPass n s).reads = s.reads := rfl
@[simp] theorem encPass_draws (n : Nat) (s : State) : (encPass n s).draws = s.draws := rfl

/-! ### decPass -/

@[simp] theorem decPass_oorpol (n : Nat) (c : KeyNumber) (s : State) :
    (decPass n c s).oorpol = s.oorpol := rfl
@[simp] theorem decPass_rfsel (n : Nat) (c : KeyNumber) (s : State) :
    (decPass n c s).rfsel = s.rfsel := rfl
@[simp] theorem decPass_errie (n : Nat) (c : KeyNumber) (s : State) :
    (decPass n c s).errie = s.errie := rfl
@[simp] theorem decPass_errcmd (n : Nat) (c : KeyNumber) (s : State) :
    (decPass n c s).errcmd = s.errcmd := rfl
@[simp] theorem decPass_rootkey (n : Nat) (c : KeyNumber) (s : State) :
    (decPass n c s).rootkey = s.rootkey := rfl
@[simp] theorem decPass_fkey (n : Nat) (c : KeyNumber) (s : State) :
    (decPass n c s).fkey = s.fkey := rfl
@[simp] theorem decPass_blk (n : Nat) (c : KeyNumber) (s : State) :
    (decPass n c s).blk = s.blk := rfl
@[simp] theorem decPass_left (n : Nat) (c : KeyNumber) (s : State) :
    (decPass n c s).left = (decRounds s.rfsel (engineKey s) n (s.left, s.right)).1 := rfl
@[simp] theorem decPass_right (n : Nat) (c : KeyNumber) (s : State) :
    (decPass n c s).right = (decRounds s.rfsel (engineKey s) n (s.left, s.right)).2 := rfl
@[simp] theorem decPass_opa (n : Nat) (c : KeyNumber) (s : State) :
    (decPass n c s).opa = s.opa := rfl
@[simp] theorem decPass_opb (n : Nat) (c : KeyNumber) (s : State) :
    (decPass n c s).opb = s.opb := rfl
@[simp] theorem decPass_res (n : Nat) (c : KeyNumber) (s : State) :
    (decPass n c s).res = s.res := rfl
@[simp] theorem decPass_rkout (n : Nat) (c : KeyNumber) (s : State) :
    (decPass n c s).rkout = s.rkout := rfl
@[simp] theorem decPass_byteout (n : Nat) (c : KeyNumber) (s : State) :
    (decPass n c s).byteout = s.byteout := rfl
@[simp] theorem decPass_w (n : Nat) (c : KeyNumber) (s : State) : (decPass n c s).w = s.w := rfl
@[simp] theorem decPass_cursor (n : Nat) (c : KeyNumber) (s : State) :
    (decPass n c s).cursor = c := rfl
@[simp] theorem decPass_keyvalid (n : Nat) (c : KeyNumber) (s : State) :
    (decPass n c s).keyvalid = s.keyvalid := rfl
@[simp] theorem decPass_engine (n : Nat) (c : KeyNumber) (s : State) :
    (decPass n c s).engine = .final := rfl
@[simp] theorem decPass_variant (n : Nat) (c : KeyNumber) (s : State) :
    (decPass n c s).variant = s.variant := rfl
@[simp] theorem decPass_lastop (n : Nat) (c : KeyNumber) (s : State) :
    (decPass n c s).lastop = .dec := rfl
@[simp] theorem decPass_busy (n : Nat) (c : KeyNumber) (s : State) :
    (decPass n c s).busy = s.busy := rfl
@[simp] theorem decPass_pend (n : Nat) (c : KeyNumber) (s : State) :
    (decPass n c s).pend = s.pend := rfl
@[simp] theorem decPass_err (n : Nat) (c : KeyNumber) (s : State) :
    (decPass n c s).err = s.err := rfl
@[simp] theorem decPass_ecode (n : Nat) (c : KeyNumber) (s : State) :
    (decPass n c s).ecode = s.ecode := rfl
@[simp] theorem decPass_ovr (n : Nat) (c : KeyNumber) (s : State) :
    (decPass n c s).ovr = s.ovr := rfl
@[simp] theorem decPass_rst (n : Nat) (c : KeyNumber) (s : State) :
    (decPass n c s).rst = s.rst := rfl
@[simp] theorem decPass_schedule (n : Nat) (c : KeyNumber) (s : State) :
    (decPass n c s).schedule = s.schedule := rfl
@[simp] theorem decPass_host (n : Nat) (c : KeyNumber) (s : State) :
    (decPass n c s).host = s.host := rfl
@[simp] theorem decPass_reads (n : Nat) (c : KeyNumber) (s : State) :
    (decPass n c s).reads = s.reads := rfl
@[simp] theorem decPass_draws (n : Nat) (c : KeyNumber) (s : State) :
    (decPass n c s).draws = s.draws := rfl

end Sys2Proof.Machine
end

