-- ==== Sys2Proof/Laws/Ops.lean ====
section
/-!
SUPPORT. One lemma per shared function: what it gives, byte by byte or case by case.
-/

namespace Sys2Proof.Machine

open Sys2Proof

@[simp] theorem xor128_getElem (a b : Block128) (j : Nat) (h : j < 16) :
    (xor128 a b)[j] = a[j] ^^^ b[j] := by
  simp [xor128]

@[simp] theorem add8_getElem (a b : Block128) (j : Nat) (h : j < 16) :
    (add8 a b)[j] = a[j] + b[j] := by
  simp [add8]

@[simp] theorem roundFunction_add8 (x k : Block128) : roundFunction .add8 x k = add8 x k := rfl

@[simp] theorem roundFunction_ext (x k : Block128) :
    roundFunction .ext x k = Config.rfExt x k := rfl

@[simp] theorem splitLeft_getElem (y : Block256) (j : Nat) (h : j < 16) :
    (splitLeft y)[j] = y[j] := by
  simp [splitLeft]

@[simp] theorem splitRight_getElem (y : Block256) (j : Nat) (h : j < 16) :
    (splitRight y)[j] = y[16 + j] := by
  simp [splitRight]

theorem joinBlocks_getElem (l r : Block128) (j : Nat) (h : j < 32) :
    (joinBlocks l r)[j] = if h' : j < 16 then l[j] else r[j - 16] := by
  simp [joinBlocks]

theorem joinBlocks_left (l r : Block128) (j : Nat) (h : j < 16) :
    (joinBlocks l r)[j] = l[j] := by
  rw [joinBlocks_getElem, dif_pos h]

theorem joinBlocks_right (l r : Block128) (j : Nat) (h : j < 16) :
    (joinBlocks l r)[16 + j] = r[j] := by
  rw [joinBlocks_getElem, dif_neg (by omega)]
  simp

/-- WRAP never refuses an index (41_key_schedule.md R156). -/
@[simp] theorem keyIndex_wrap (i : Nat) : keyIndex .wrap i = some (Fin.ofNat 11 i) := rfl

/-- FAULT admits exactly the indices up to 10 (41_key_schedule.md R156). -/
theorem keyIndex_fault (i : Nat) :
    keyIndex .fault i = if i ≤ 10 then some (Fin.ofNat 11 i) else none := rfl

/-- An admitted index is taken mod 11 (41_key_schedule.md R156). -/
theorem keyIndex_some {p : IndexPolicy} {i : Nat} {c : KeyNumber} (h : keyIndex p i = some c) :
    c = Fin.ofNat 11 i ∧ (p = .fault → i ≤ 10) := by
  cases p with
  | wrap => exact ⟨by simpa using h.symm, by simp⟩
  | fault =>
    rw [keyIndex_fault] at h
    split at h
    · exact ⟨by simpa using h.symm, fun _ => ‹_›⟩
    · cases h

/-- Within the policy every index is admitted (41_key_schedule.md R156). -/
theorem keyIndex_of_le {p : IndexPolicy} {i : Nat} (h : p = .fault → i ≤ 10) :
    keyIndex p i = some (Fin.ofNat 11 i) := by
  cases p with
  | wrap => rfl
  | fault => rw [keyIndex_fault, if_pos (h rfl)]

theorem nextCursor_val (c : KeyNumber) :
    (nextCursor c).val = if c.val = 10 then 0 else c.val + 1 := by
  have h := c.isLt
  unfold nextCursor
  split
  · rfl
  · simp only [Fin.ofNat, Nat.mod_eq_of_lt (show c.val + 1 < 11 by omega)]

/-- A byte of a round key (41_key_schedule.md R155). -/
theorem roundKey_getElem (w : KeyTable) (r : KeyNumber) (m : Nat) (h : m < 16) :
    (roundKey w r)[m] = byteOf (3 - m % 4) (w[4 * r.val + m / 4]'(by omega)) := by
  simp [roundKey]

/-- The expansion list grows by one word a step. -/
@[simp] theorem expansionWords_length (k : Block128) (m : Nat) :
    (expansionWords k m).length = m + 4 := by
  induction m with
  | zero => rfl
  | succ m ih => simp [expansionWords, ih]

/-- A word once computed stays as it is when the list grows. -/
theorem expansionWords_stable (k : Block128) (m d i : Nat) (h : i < m + 4) :
    (expansionWords k (m + d)).getD i 0#32 = (expansionWords k m).getD i 0#32 := by
  induction d with
  | zero => rfl
  | succ d ih =>
    have hi : i < (expansionWords k (m + d)).length := by simp; omega
    rw [← ih, ← Nat.add_assoc, expansionWords]
    simp only [List.getD_eq_getElem?_getD]
    rw [List.getElem?_append_left hi]

theorem keyExpansion_getElem (k : Block128) (i : Nat) (h : i < 44) :
    (keyExpansion k)[i] = (expansionWords k 40).getD i 0#32 := by
  unfold keyExpansion
  rw [Vector.getElem_ofFn]

/-- DecRound undoes EncRound with the same key, for every round function (42_feistel.md R197). -/
theorem decRound_encRound (f : RoundFn) (k : Block128) (p : Block128 × Block128) :
    decRound f k (encRound f k p) = p := by
  obtain ⟨l, r⟩ := p
  simp only [decRound, encRound, Prod.mk.injEq, true_and]
  ext j h
  simp

end Sys2Proof.Machine
end

