-- ==== Sys2Proof/Laws/Exec.lean ====
section
/-!
SUPPORT. What each command with checks can do, said once.
-/

namespace Sys2Proof.Machine

open Sys2Proof

/-- SETPOS and GETKEY share this shape: ENOKEY, EINDEX, or an effect (41_key_schedule.md R158, R161,
R162). -/
theorem execSetpos_next {i : Nat} {s t : State} (h : execSetpos i s = .next t) :
    (s.keyvalid = false ∧ t = raiseFault .enokey s) ∨
    (s.keyvalid = true ∧ s.oorpol = .fault ∧ 10 < i ∧ t = raiseFault .eindex s) ∨
    (s.keyvalid = true ∧ (s.oorpol = .fault → i ≤ 10) ∧
      t = complete { s with cursor := Fin.ofNat 11 i }) := by
  unfold execSetpos at h
  split at h
  · cases h; exact .inl ⟨‹_›, rfl⟩
  · have hk : s.keyvalid = true := by simpa using ‹¬s.keyvalid = false›
    by_cases hp : s.oorpol = .fault → i ≤ 10
    · rw [keyIndex_of_le hp] at h
      cases h
      exact .inr (.inr ⟨hk, hp, rfl⟩)
    · push Not at hp
      rw [hp.1, keyIndex_fault, if_neg (by omega)] at h
      cases h
      exact .inr (.inl ⟨hk, hp.1, hp.2, rfl⟩)

/-- All GETKEY can do (41_key_schedule.md R162). -/
theorem execGetkey_next {i : Nat} {s t : State} (h : execGetkey i s = .next t) :
    (s.keyvalid = false ∧ t = raiseFault .enokey s) ∨
    (s.keyvalid = true ∧ s.oorpol = .fault ∧ 10 < i ∧ t = raiseFault .eindex s) ∨
    (s.keyvalid = true ∧ (s.oorpol = .fault → i ≤ 10) ∧
      t = complete { s with rkout := roundKey s.w (Fin.ofNat 11 i) }) := by
  unfold execGetkey at h
  split at h
  · cases h; exact .inl ⟨‹_›, rfl⟩
  · have hk : s.keyvalid = true := by simpa using ‹¬s.keyvalid = false›
    by_cases hp : s.oorpol = .fault → i ≤ 10
    · rw [keyIndex_of_le hp] at h
      cases h
      exact .inr (.inr ⟨hk, hp, rfl⟩)
    · push Not at hp
      rw [hp.1, keyIndex_fault, if_neg (by omega)] at h
      cases h
      exact .inr (.inl ⟨hk, hp.1, hp.2, rfl⟩)

/-- All NEXTKEY can do (41_key_schedule.md R164). -/
theorem execNextkey_next {s t : State} (h : execNextkey s = .next t) :
    (s.keyvalid = false ∧ t = raiseFault .enokey s) ∨
    (s.keyvalid = true ∧
      t = complete { s with rkout := roundKey s.w s.cursor, cursor := nextCursor s.cursor }) := by
  unfold execNextkey at h
  split at h <;> cases h
  · exact .inl ⟨‹_›, rfl⟩
  · exact .inr ⟨by simpa using ‹¬s.keyvalid = false›, rfl⟩

/-- All INITS can do (42_feistel.md R192). -/
theorem execInits_next {s t : State} (h : execInits s = .next t) :
    (s.keyvalid = false ∧ t = raiseFault .enokey s) ∨
    (s.keyvalid = true ∧ t = complete { s with
      left := splitLeft s.blk, right := splitRight s.blk
      engine := .ready, variant := .sched, lastop := .none }) := by
  unfold execInits at h
  split at h <;> cases h
  · exact .inl ⟨‹_›, rfl⟩
  · exact .inr ⟨by simpa using ‹¬s.keyvalid = false›, rfl⟩

/-- All ENC can do (42_feistel.md R193). -/
theorem execEnc_next {n : Nat} {s t : State} (h : execEnc n s = .next t) :
    (s.engine ≠ .ready ∧ t = raiseFault .eseq s) ∨
    (s.engine = .ready ∧ n = 0 ∧ t = raiseFault .erounds s) ∨
    (s.engine = .ready ∧ s.variant = .sched ∧ s.oorpol = .fault ∧ 11 < n ∧
      t = raiseFault .eindex s) ∨
    (s.engine = .ready ∧ n ≠ 0 ∧ (s.variant = .sched → s.oorpol = .fault → n ≤ 11) ∧
      t = complete (encPass n s)) := by
  unfold execEnc at h
  split at h
  · cases h; exact .inl ⟨‹_›, rfl⟩
  · have he : s.engine = .ready := by simpa using ‹¬s.engine ≠ .ready›
    split at h
    · cases h; exact .inr (.inl ⟨he, ‹_›, rfl⟩)
    · split at h <;> cases h
      · rename_i hp
        exact .inr (.inr (.inl ⟨he, hp.1, hp.2.1, hp.2.2, rfl⟩))
      · rename_i hp
        exact .inr (.inr (.inr ⟨he, ‹_›, fun h1 h2 => by simpa [h1, h2] using hp, rfl⟩))

theorem decAllowed_iff (s : State) : decAllowed s = true ↔
    s.variant = .sched ∧ (s.engine = .ready ∨ (s.engine = .final ∧ s.lastop = .enc)) := by
  simp [decAllowed]

/-- All DEC can do (42_feistel.md R190, R194). -/
theorem execDec_next {n : Nat} {s t : State} (h : execDec n s = .next t) :
    (decAllowed s = false ∧ (s.engine = .idle ∨ s.variant ≠ .fixed) ∧ t = raiseFault .eseq s) ∨
    (s.engine ≠ .idle ∧ s.variant = .fixed ∧ t = raiseFault .evariant s) ∨
    (decAllowed s = true ∧ n = 0 ∧ t = raiseFault .erounds s) ∨
    (decAllowed s = true ∧ s.oorpol = .fault ∧ 11 < n ∧ t = raiseFault .eindex s) ∨
    (decAllowed s = true ∧ n ≠ 0 ∧ (s.oorpol = .fault → n ≤ 11) ∧
      t = complete (decPass n (Fin.ofNat 11 (n - 1)) s)) := by
  unfold execDec at h
  split at h
  · rename_i hi
    cases h
    exact .inl ⟨by simp [decAllowed, hi], .inl hi, rfl⟩
  · split at h
    · cases h; exact .inr (.inl ⟨‹_›, ‹_›, rfl⟩)
    · split at h
      · cases h; exact .inl ⟨‹_›, .inr ‹_›, rfl⟩
      · have ha : decAllowed s = true := by simpa using ‹¬decAllowed s = false›
        split at h
        · cases h; exact .inr (.inr (.inl ⟨ha, ‹_›, rfl⟩))
        · split at h
          · rename_i hp
            cases h
            exact .inr (.inr (.inr (.inl ⟨ha, hp.1, hp.2, rfl⟩)))
          · rename_i hn hp
            have hq : s.oorpol = .fault → n ≤ 11 := fun h1 => by simpa [h1] using hp
            rw [keyIndex_of_le (fun h1 => by have := hq h1; omega)] at h
            cases h
            exact .inr (.inr (.inr (.inr ⟨ha, hn, hq, rfl⟩)))

/-- Every command ends in a next state with BUSY = 0, with or without a fault (20_memory.md R66). -/
theorem exec_completes (i : Instr) (s : State) : ∃ t, exec i s = .next t ∧ t.busy = false := by
  cases i with
  | setpos n =>
    change ∃ t, execSetpos n s = .next t ∧ _
    unfold execSetpos; (repeat' split) <;> exact ⟨_, rfl, rfl⟩
  | getkey n =>
    change ∃ t, execGetkey n s = .next t ∧ _
    unfold execGetkey; (repeat' split) <;> exact ⟨_, rfl, rfl⟩
  | nextkey =>
    change ∃ t, execNextkey s = .next t ∧ _
    unfold execNextkey; (repeat' split) <;> exact ⟨_, rfl, rfl⟩
  | inits =>
    change ∃ t, execInits s = .next t ∧ _
    unfold execInits; (repeat' split) <;> exact ⟨_, rfl, rfl⟩
  | enc n =>
    change ∃ t, execEnc n s = .next t ∧ _
    unfold execEnc; (repeat' split) <;> exact ⟨_, rfl, rfl⟩
  | dec n =>
    change ∃ t, execDec n s = .next t ∧ _
    unfold execDec; (repeat' split) <;> exact ⟨_, rfl, rfl⟩
  | _ => exact ⟨_, rfl, rfl⟩

end Sys2Proof.Machine
end

