-- ==== Sys2Proof/Laws/HostPort.lean ====
section
/-!
SUPPORT. What the host's accesses can do: the cases of a write, the registers no access changes, and
the cases of a host turn.
-/

namespace Sys2Proof.Machine

open Sys2Proof

/-- A write while BUSY = 1 (20_memory.md R70). -/
theorem memWrite_busy {s : State} (h : s.busy = true) (a : WindowAddr) (v : Word) :
    memWrite a v s = { s with ovr := true } := by
  simp [memWrite, h]

/-- A write while BUSY = 0 (20_memory.md R67). -/
theorem memWrite_idle {s : State} (h : s.busy = false) (a : WindowAddr) (v : Word) :
    memWrite a v s = writeReg (addressed a) v s := by
  simp [memWrite, h]

/-- All a write can do (20_memory.md R64, R66, R67, R70): set OVR, issue a command, write CTRL, write a
word of a writable block, or nothing. -/
theorem memWrite_cases (a : WindowAddr) (v : Word) (s : State) :
    (s.busy = true ∧ memWrite a v s = { s with ovr := true }) ∨
    (s.busy = false ∧
      (memWrite a v s = s ∨
       ((s.err = true → v = clrerrWord) ∧ memWrite a v s = { s with pend := v, busy := true }) ∨
       memWrite a v s = writeCtrl v s ∨ (∃ x, memWrite a v s = { s with rootkey := x }) ∨
       (∃ x, memWrite a v s = { s with fkey := x }) ∨ (∃ x, memWrite a v s = { s with blk := x }) ∨
       (∃ x, memWrite a v s = { s with opa := x }) ∨ ∃ x, memWrite a v s = { s with opb := x })) := by
  by_cases hb' : s.busy = true
  · exact .inl ⟨hb', memWrite_busy hb' a v⟩
  · have hb : s.busy = false := by simpa using hb'
    refine .inr ⟨hb, ?_⟩
    rw [memWrite_idle hb]
    cases addressed a with
    | cmd =>
      simp only [writeReg, issueCommand]
      split
      · exact .inl rfl
      · exact .inr (.inl ⟨by simp_all, rfl⟩)
    | ctrl => exact .inr (.inr (.inl rfl))
    | rootkey k => exact .inr (.inr (.inr (.inl ⟨_, rfl⟩)))
    | fkey k => exact .inr (.inr (.inr (.inr (.inl ⟨_, rfl⟩))))
    | blk k => exact .inr (.inr (.inr (.inr (.inr (.inl ⟨_, rfl⟩)))))
    | opa k => exact .inr (.inr (.inr (.inr (.inr (.inr (.inl ⟨_, rfl⟩))))))
    | opb k => exact .inr (.inr (.inr (.inr (.inr (.inr (.inr ⟨_, rfl⟩))))))
    | _ => exact .inl rfl

/-- The registers and the model's fields that no write changes (20_memory.md R60). -/
theorem memWrite_frame (a : WindowAddr) (v : Word) (s : State) :
    (memWrite a v s).w = s.w ∧ (memWrite a v s).cursor = s.cursor ∧
    (memWrite a v s).keyvalid = s.keyvalid ∧ (memWrite a v s).engine = s.engine ∧
    (memWrite a v s).variant = s.variant ∧ (memWrite a v s).lastop = s.lastop ∧
    (memWrite a v s).err = s.err ∧ (memWrite a v s).ecode = s.ecode ∧
    (memWrite a v s).errcmd = s.errcmd ∧ (memWrite a v s).left = s.left ∧
    (memWrite a v s).right = s.right ∧ (memWrite a v s).res = s.res ∧
    (memWrite a v s).rkout = s.rkout ∧ (memWrite a v s).byteout = s.byteout ∧
    (memWrite a v s).rst = s.rst ∧ (memWrite a v s).schedule = s.schedule ∧
    (memWrite a v s).host = s.host ∧ (memWrite a v s).reads = s.reads ∧
    (memWrite a v s).draws = s.draws := by
  rcases memWrite_cases a v s with ⟨-, h⟩ | ⟨-, h | ⟨-, h⟩ | h | ⟨x, h⟩ | ⟨x, h⟩ | ⟨x, h⟩ | ⟨x, h⟩ |
    ⟨x, h⟩⟩ <;> rw [h] <;> simp

/-- A read changes no register (20_memory.md R60). -/
theorem memRead_frame (a : WindowAddr) (s : State) :
    ∃ d, memRead a s = { s with reads := memReadValue a s :: s.reads, draws := d } := ⟨_, rfl⟩

/-- All a host turn that answers a next state can do (00_scope.md R13). -/
theorem hostTurn_next {s t : State} (h : hostTurn s = .next t) :
    (s.host = [] ∧ t = s) ∨
    (s.rst = false ∧ ∃ op rest, s.host = op :: rest ∧
      ((∃ a, op = .rd a ∧ t = memRead a { s with host := rest }) ∨
       (∃ a v, op = .wr a v ∧ t = memWrite a v { s with host := rest }) ∨
       (op = .wait ∧
          t = memRead statusAddr { s with host := if s.busy then s.host else rest }))) := by
  unfold hostTurn at h
  split at h
  · cases h; exact .inl ⟨‹_›, rfl⟩
  · rename_i op rest hh
    split at h
    · cases h
    · refine .inr ⟨by simpa using ‹¬s.rst = true›, op, rest, hh, ?_⟩
      split at h <;> cases h
      · exact .inl ⟨_, rfl, rfl⟩
      · exact .inr (.inl ⟨_, _, rfl, rfl⟩)
      · exact .inr (.inr ⟨rfl, rfl⟩)

end Sys2Proof.Machine
end

