-- ==== Sys2Proof/Laws/Step.lean ====
section
/-!
SUPPORT. What a step can do, said once.
-/

namespace Sys2Proof.Machine

open Sys2Proof

/-- All the ENGINE's turn can do (30_encoding.md R92). -/
theorem engineTurn_next {s t : State} (h : engineTurn s = .next t) :
    (¬(s.rst = false ∧ s.busy = true) ∧ t = s) ∨
    (s.rst = false ∧ s.busy = true ∧ (∃ e, decode s.pend = .error e) ∧
      t = raiseFault .eillegal s) ∨
    (s.rst = false ∧ s.busy = true ∧ ∃ i, decode s.pend = .ok i ∧ exec i s = .next t) := by
  unfold engineTurn at h
  split at h
  · rename_i hc
    unfold runPending at h
    split at h
    · rename_i e he
      cases h
      exact .inr (.inl ⟨hc.1, hc.2, ⟨e, he⟩, rfl⟩)
    · rename_i i hi
      exact .inr (.inr ⟨hc.1, hc.2, i, hi, h⟩)
  · cases h; exact .inl ⟨‹_›, rfl⟩

/-- All a step can do (00_scope.md R13): with u the state less its turn, the ENGINE's turn, the HOST's
turn, a change of the reset input, or nothing under reset. -/
theorem step_next {s t : State} (h : step s = .next t) :
    ∃ u, u = { s with schedule := s.schedule.tail } ∧
      ((engineTurn u = .next t ∧
          (s.schedule.head? = some .engine ∨ (s.schedule = [] ∧ s.rst = false ∧ s.busy = true))) ∨
       (hostTurn u = .next t ∧
          (s.schedule.head? = some .host ∨ (s.schedule = [] ∧ s.rst = false ∧ s.busy = false))) ∨
       (s.schedule.head? = some .rstAssert ∧ t = assertReset u) ∨
       (s.schedule.head? = some .rstRelease ∧ t = releaseReset u) ∨
       (s.schedule = [] ∧ s.rst = true ∧ t = s)) := by
  unfold step at h
  split at h
  · rename_i hs
    have htail : s.schedule.tail = s.schedule := by simp [hs]
    refine ⟨s, by rw [htail], ?_⟩
    unfold defaultTurn at h
    split at h
    · cases h; simp_all
    · split at h <;> simp_all
  · rename_i a rest hs
    refine ⟨_, rfl, ?_⟩
    cases a <;> simp_all [takeTurn]

/-- A run of no steps. -/
@[simp] theorem run_zero (s : State) : Sys2Proof.core.run 0 s = .next s := rfl

/-- A run goes on after a step that answers a next state. -/
theorem run_succ {s t : State} (n : Nat) (h : step s = .next t) :
    Sys2Proof.core.run (n + 1) s = Sys2Proof.core.run n t := by
  have hc : Sys2Proof.core.step s = .next t := h
  simp [Host.Core.run, hc]

end Sys2Proof.Machine
end

