-- ==== Sys2Proof/Laws/Inv.lean ====
section
/-!
SUPPORT. The parts of the invariant depend on few fields, so an update that keeps those keeps them; what
executing an illegal word does; and how a step can touch the scheduler and the engine.
-/

namespace Sys2Proof.Machine

open Sys2Proof

theorem schedHasKey_congr {s t : State} (hv : t.variant = s.variant)
    (hk : t.keyvalid = s.keyvalid) : schedHasKey t ↔ schedHasKey s := by
  unfold schedHasKey; rw [hv, hk]

theorem engineConsistent_congr {s t : State} (he : t.engine = s.engine)
    (hv : t.variant = s.variant) (hl : t.lastop = s.lastop) :
    engineConsistent t ↔ engineConsistent s := by
  unfold engineConsistent; rw [he, hv, hl]

theorem faultConsistent_congr {s t : State} (he : t.err = s.err) (hc : t.ecode = s.ecode) :
    faultConsistent t ↔ faultConsistent s := by
  unfold faultConsistent; rw [he, hc]

theorem tableConsistent_congr {s t : State} (hk : t.keyvalid = s.keyvalid) (hw : t.w = s.w)
    (hc : t.cursor = s.cursor) : tableConsistent t ↔ tableConsistent s := by
  unfold tableConsistent; rw [hk, hw, hc]

theorem onlyClrerrPending_of_not_busy {s : State} (h : s.busy = false) : onlyClrerrPending s := by
  intro _ hb; rw [h] at hb; cases hb

theorem resetHeld_of_released {s : State} (h : s.rst = false) : resetHeld s := by
  intro hr; rw [h] at hr; cases hr

/-- What a word that does not decode does when it is executed. -/
theorem faultsIllegal_of_decode_error {v : Word} {e : DecodeError} (h : decode v = .error e) :
    faultsIllegal v := by
  rintro s rfl
  unfold runPending
  rw [h]; rfl

/-- How a step can touch the scheduler and the engine (10_state.md R29 to R33): by the ENGINE executing the
command it decoded, by reset, or not at all. -/
theorem step_scheduler_engine {s t : State} (h : step s = .next t) :
    (engineMovesNext s ∧ ∃ i, decode s.pend = .ok i ∧
      exec i { s with schedule := s.schedule.tail } = .next t) ∨
    (s.schedule.head? = some .rstAssert ∧ t = assertReset { s with schedule := s.schedule.tail }) ∨
    (t.w = s.w ∧ t.cursor = s.cursor ∧ t.keyvalid = s.keyvalid ∧ t.engine = s.engine ∧
      t.variant = s.variant ∧ t.lastop = s.lastop) := by
  obtain ⟨u, rfl, hc⟩ := step_next h
  rcases hc with ⟨hx, hs⟩ | ⟨hh, -⟩ | ⟨hs, rfl⟩ | ⟨-, rfl⟩ | ⟨-, -, rfl⟩
  · rcases engineTurn_next hx with ⟨-, rfl⟩ | ⟨-, -, -, rfl⟩ | ⟨hr, hb, i, hd, hx⟩
    · simp
    · simp
    · exact .inl ⟨⟨hr, hb, hs.elim .inr fun h => .inl h.1⟩, i, hd, hx⟩
  · rcases hostTurn_next hh with ⟨-, rfl⟩ | ⟨-, op, rest, -, hcase⟩
    · simp
    · rcases hcase with ⟨a, -, rfl⟩ | ⟨a, v, -, rfl⟩ | ⟨-, rfl⟩
      · simp [memRead]
      · have hf := memWrite_frame a v { s with schedule := s.schedule.tail, host := rest }
        simp [hf]
      · simp [memRead]
  · exact .inr (.inl ⟨hs, rfl⟩)
  · simp
  · simp

end Sys2Proof.Machine
end

