-- ==== Sys2Proof/Laws/PerInstr.lean ====
section
/-!
SUPPORT. Statements about every command, one lemma per constructor.
-/

namespace Sys2Proof.Laws

open Sys2Proof

/-- The word of a well-formed command matches the row of the opcode map that has its mnemonic
(30_encoding.md R92, R93, R97). -/
def EncodesItsRow.Statement (i : Instr) : Prop :=
  i.wellFormed = true → ∃ r ∈ opcodeRows, r.mnemonic = i.mnemonic ∧ r.accepts (encode i) = true

theorem EncodesItsRow.bxor : EncodesItsRow.Statement .bxor := fun _ =>
  ⟨⟨"BXOR", 0x30000000#32, 0xFFFFFFFF#32⟩, by decide, rfl, by decide⟩

theorem EncodesItsRow.badd : EncodesItsRow.Statement .badd := fun _ =>
  ⟨⟨"BADD", 0x31000000#32, 0xFFFFFFFF#32⟩, by decide, rfl, by decide⟩

theorem EncodesItsRow.brf : EncodesItsRow.Statement .brf := fun _ =>
  ⟨⟨"BRF", 0x32000000#32, 0xFFFFFFFF#32⟩, by decide, rfl, by decide⟩

theorem EncodesItsRow.bsplit : EncodesItsRow.Statement .bsplit := fun _ =>
  ⟨⟨"BSPLIT", 0x33000000#32, 0xFFFFFFFF#32⟩, by decide, rfl, by decide⟩

theorem EncodesItsRow.bjoin : EncodesItsRow.Statement .bjoin := fun _ =>
  ⟨⟨"BJOIN", 0x34000000#32, 0xFFFFFFFF#32⟩, by decide, rfl, by decide⟩

theorem EncodesItsRow.expand : EncodesItsRow.Statement .expand := fun _ =>
  ⟨⟨"EXPAND", 0x10000000#32, 0xFFFFFFFF#32⟩, by decide, rfl, by decide⟩

theorem EncodesItsRow.setpos (n : Nat) : EncodesItsRow.Statement (.setpos n) := fun h =>
  ⟨⟨"SETPOS", 0x11000000#32, 0xFFFF0000#32⟩, by decide, rfl, by
    have he := encode_toNat h
    simp only [Instr.wellFormed, Instr.opcode, Instr.immediate, decide_eq_true_eq] at h he
    rw [OpcodeRow.accepts, decide_eq_true_eq, and_mask_upper16 _ _ (by decide), he]
    simp only [BitVec.toNat_ofNat]
    omega⟩

theorem EncodesItsRow.getkey (n : Nat) : EncodesItsRow.Statement (.getkey n) := fun h =>
  ⟨⟨"GETKEY", 0x12000000#32, 0xFFFF0000#32⟩, by decide, rfl, by
    have he := encode_toNat h
    simp only [Instr.wellFormed, Instr.opcode, Instr.immediate, decide_eq_true_eq] at h he
    rw [OpcodeRow.accepts, decide_eq_true_eq, and_mask_upper16 _ _ (by decide), he]
    simp only [BitVec.toNat_ofNat]
    omega⟩

theorem EncodesItsRow.nextkey : EncodesItsRow.Statement .nextkey := fun _ =>
  ⟨⟨"NEXTKEY", 0x13000000#32, 0xFFFFFFFF#32⟩, by decide, rfl, by decide⟩

theorem EncodesItsRow.sbox (n : Nat) : EncodesItsRow.Statement (.sbox n) := fun h =>
  ⟨⟨"SBOX", 0x14000000#32, 0xFFFFFF00#32⟩, by decide, rfl, by
    have he := encode_toNat h
    simp only [Instr.wellFormed, Instr.opcode, Instr.immediate, decide_eq_true_eq] at h he
    rw [OpcodeRow.accepts, decide_eq_true_eq, and_mask_upper24 _ _ (by decide), he]
    simp only [BitVec.toNat_ofNat]
    omega⟩

theorem EncodesItsRow.initf : EncodesItsRow.Statement .initf := fun _ =>
  ⟨⟨"INITF", 0x20000000#32, 0xFFFFFFFF#32⟩, by decide, rfl, by decide⟩

theorem EncodesItsRow.inits : EncodesItsRow.Statement .inits := fun _ =>
  ⟨⟨"INITS", 0x21000000#32, 0xFFFFFFFF#32⟩, by decide, rfl, by decide⟩

theorem EncodesItsRow.enc (n : Nat) : EncodesItsRow.Statement (.enc n) := fun h =>
  ⟨⟨"ENC", 0x22000000#32, 0xFFFF0000#32⟩, by decide, rfl, by
    have he := encode_toNat h
    simp only [Instr.wellFormed, Instr.opcode, Instr.immediate, decide_eq_true_eq] at h he
    rw [OpcodeRow.accepts, decide_eq_true_eq, and_mask_upper16 _ _ (by decide), he]
    simp only [BitVec.toNat_ofNat]
    omega⟩

theorem EncodesItsRow.dec (n : Nat) : EncodesItsRow.Statement (.dec n) := fun h =>
  ⟨⟨"DEC", 0x23000000#32, 0xFFFF0000#32⟩, by decide, rfl, by
    have he := encode_toNat h
    simp only [Instr.wellFormed, Instr.opcode, Instr.immediate, decide_eq_true_eq] at h he
    rw [OpcodeRow.accepts, decide_eq_true_eq, and_mask_upper16 _ _ (by decide), he]
    simp only [BitVec.toNat_ofNat]
    omega⟩

theorem EncodesItsRow.join : EncodesItsRow.Statement .join := fun _ =>
  ⟨⟨"JOIN", 0x24000000#32, 0xFFFFFFFF#32⟩, by decide, rfl, by decide⟩

theorem EncodesItsRow.nop : EncodesItsRow.Statement .nop := fun _ =>
  ⟨⟨"NOP", 0x00000000#32, 0xFFFFFFFF#32⟩, by decide, rfl, by decide⟩

theorem EncodesItsRow.clrerr : EncodesItsRow.Statement .clrerr := fun _ =>
  ⟨⟨"CLRERR", 0x01000000#32, 0xFFFFFFFF#32⟩, by decide, rfl, by decide⟩

end Sys2Proof.Laws
end

