-- ==== Sys2Proof/Tests/Slice0.lean ====
section
/-!
SUPPORT. Tests of the model against values of spec/ (95_test_vectors.md and the rules' own examples),
and for each statement of Obligations.lean that has hypotheses, a state and operands that meet them.
-/

namespace Sys2Proof.Tests

open Sys2Proof Sys2Proof.Machine

/-! ### Helpers -/

/-- The state an outcome leads to; the reset state where there is none. -/
def after (o : Host.Outcome State Fault Refusal) : State :=
  match o with
  | .next t => t
  | .fault _ => State.reset
  | .refused _ => State.reset

/-- The bytes of a block, each as a number. -/
def bytes {n : Nat} (x : Vector Byte n) : List Nat := x.toList.map BitVec.toNat

/-- Block A of 95_test_vectors.md section 2. -/
def blockA : Block128 := Vector.ofFn fun j : Fin 16 => BitVec.ofNat 8 j.val

/-- Block F of 95_test_vectors.md section 2. -/
def blockF : Block128 := Vector.replicate 16 0xff#8

/-- P of 95_test_vectors.md. -/
def plain : Block256 :=
  (asciiBlock 32 "hello world hello this is my256!".toList).getD (zeroBlock 32)

/-- K of 95_test_vectors.md. -/
def rootK : Block128 := (asciiBlock 16 "thisiakey128bits".toList).getD (zeroBlock 16)

/-- The FIPS-197 key of 95_test_vectors.md section 3.1. -/
def rootFips : Block128 :=
  #v[0x2b#8, 0x7e#8, 0x15#8, 0x16#8, 0x28#8, 0xae#8, 0xd2#8, 0xa6#8,
     0xab#8, 0xf7#8, 0x15#8, 0x88#8, 0x09#8, 0xcf#8, 0x4f#8, 0x3c#8]

/-- Operands A and F, nothing else. -/
def opsAF : State := { State.reset with opa := blockA, opb := blockF }

/-- A scheduler over the table of K. -/
def keyedK : State := { State.reset with w := keyExpansion rootK, keyvalid := true }

/-- A scheduler whose table is not looked at. -/
def keyed : State := { State.reset with keyvalid := true }

/-- The same under OORPOL = FAULT. -/
def keyedFault : State := { keyed with oorpol := .fault }

/-- A scheduled engine in READY. -/
def readySched : State := { keyed with engine := .ready, variant := .sched }

/-- The same under OORPOL = FAULT. -/
def readySchedFault : State := { keyedFault with engine := .ready, variant := .sched }

/-- A scheduled engine in FINAL after ENC, under OORPOL = FAULT. -/
def finalEncFault : State := { readySchedFault with engine := .final, lastop := .enc }

/-- A fixed engine in READY. -/
def readyFixed : State := { State.reset with engine := .ready, variant := .fixed }

/-- A fixed engine in FINAL. -/
def finalFixed : State := { readyFixed with engine := .final, lastop := .enc }

/-- A command pending, with the given interleaving. -/
def pending (v : Word) (sched : List Turn) : State :=
  { State.reset with pend := v, busy := true, schedule := sched }

/-- The fault state of 95_test_vectors.md C3. -/
def faulted : State :=
  { State.reset with err := true, ecode := .eillegal, errcmd := 0x02000000#32 }

/-! ### Decoding: words written out from 30_encoding.md R90 and R93, as OPC, RSV, IMM16 -/

theorem test_decode_bxor : decode (0b00110000#8 ++ 0b00000000#8 ++ 0#16) = .ok .bxor := by decide
theorem test_decode_badd : decode (0b00110001#8 ++ 0b00000000#8 ++ 0#16) = .ok .badd := by decide
theorem test_decode_brf : decode (0b00110010#8 ++ 0b00000000#8 ++ 0#16) = .ok .brf := by decide
theorem test_decode_bsplit : decode (0b00110011#8 ++ 0b00000000#8 ++ 0#16) = .ok .bsplit := by decide
theorem test_decode_bjoin : decode (0b00110100#8 ++ 0b00000000#8 ++ 0#16) = .ok .bjoin := by decide
theorem test_decode_expand : decode (0b00010000#8 ++ 0b00000000#8 ++ 0#16) = .ok .expand := by decide
theorem test_decode_setpos :
    decode (0b00010001#8 ++ 0b00000000#8 ++ 0b1111111111111110#16) = .ok (.setpos 65534) := by decide
theorem test_decode_getkey :
    decode (0b00010010#8 ++ 0b00000000#8 ++ 0b0000000000001010#16) = .ok (.getkey 10) := by decide
theorem test_decode_nextkey : decode (0b00010011#8 ++ 0b00000000#8 ++ 0#16) = .ok .nextkey := by decide
theorem test_decode_sbox :
    decode (0b00010100#8 ++ 0b00000000#8 ++ 0b0000000011011100#16) = .ok (.sbox 0xdc) := by decide
theorem test_decode_initf : decode (0b00100000#8 ++ 0b00000000#8 ++ 0#16) = .ok .initf := by decide
theorem test_decode_inits : decode (0b00100001#8 ++ 0b00000000#8 ++ 0#16) = .ok .inits := by decide
theorem test_decode_enc :
    decode (0b00100010#8 ++ 0b00000000#8 ++ 0b0000000000100000#16) = .ok (.enc 32) := by decide
theorem test_decode_dec :
    decode (0b00100011#8 ++ 0b00000000#8 ++ 0b1000000000000001#16) = .ok (.dec 32769) := by decide
theorem test_decode_join : decode (0b00100100#8 ++ 0b00000000#8 ++ 0#16) = .ok .join := by decide
theorem test_decode_nop : decode (0b00000000#8 ++ 0b00000000#8 ++ 0#16) = .ok .nop := by decide
theorem test_decode_clrerr : decode (0b00000001#8 ++ 0b00000000#8 ++ 0#16) = .ok .clrerr := by decide

/-- 95_test_vectors.md C3, C8: unassigned OPC values. -/
theorem test_decode_unknown_opcode :
    decode 0x02000000#32 = .error .unknownOpcode ∧ decode 0x15000000#32 = .error .unknownOpcode ∧
    decode 0x25000000#32 = .error .unknownOpcode ∧ decode 0x35000000#32 = .error .unknownOpcode ∧
    decode 0xFFFFFFFF#32 = .error .unknownOpcode := by decide

/-- 30_encoding.md R94: a nonzero RSV. -/
theorem test_decode_reserved_field :
    decode 0x22010020#32 = .error .reservedField ∧ decode 0x30010000#32 = .error .reservedField := by
  decide

/-- 30_encoding.md R94, 95_test_vectors.md C2, C5, C6: stray IMM16 bits. -/
theorem test_decode_unused_immediate :
    decode 0x30000001#32 = .error .unusedImmediate ∧ decode 0x14000100#32 = .error .unusedImmediate ∧
    decode 0x00000001#32 = .error .unusedImmediate ∧
    decode 0x01000001#32 = .error .unusedImmediate := by decide

/-- 30_encoding.md R97: the examples of the assembler. -/
theorem test_assemble_examples :
    assemble "ENC 32" = some 0x22000020#32 ∧ assemble "GETKEY 10" = some 0x1200000A#32 ∧
    assemble "SBOX 0xdc" = some 0x140000DC#32 := by decide +kernel

/-- 30_encoding.md R97: operands outside their field, a missing operand and one too many. -/
theorem test_assemble_errors :
    assemble "ENC 65536" = none ∧ assemble "SBOX 256" = none ∧ assemble "SETPOS" = none ∧
    assemble "NOP 0" = none := by decide +kernel

/-- 30_encoding.md R98: a block of exactly 16 ASCII characters (the codes of K), and no other string. -/
theorem test_ascii_block :
    blockLiteral 16 "\"thisiakey128bits\"" = some rootK ∧ blockWord rootK 0 = 0x73696874#32 ∧
    blockLiteral 16 "\"thisiakey128bit\"" = none ∧ blockLiteral 16 "\"thisiakey128bits!\"" = none ∧
    blockLiteral 16 "\"thisiakey128bité\"" = none := by decide +kernel

/-- 30_encoding.md R98, 95_test_vectors.md section 3.1: hexadecimal bytes in index order, and the writes
of LOAD128. -/
theorem test_hex_block :
    blockLiteral 16 "2b 7e 15 16 28 ae d2 a6 ab f7 15 88 09 cf 4f 3c" = some rootFips ∧
    blockLiteral 16 "2b 7e 15 16 28 ae d2 a6 ab f7 15 88 09 cf 4f" = none ∧
    load128Text 0x010#9 "2b7e151628aed2a6abf7158809cf4f3c" =
      some [.wr 0x010#9 0x16157e2b#32, .wr 0x014#9 0xa6d2ae28#32, .wr 0x018#9 0x8815f7ab#32,
        .wr 0x01C#9 0x3c4fcf09#32] := by decide +kernel

/-! ### WellFormed: one ill-formed term for each check -/

theorem test_ill_formed_setpos : (Instr.setpos 65536).wellFormed = false := by decide
theorem test_ill_formed_getkey : (Instr.getkey 65536).wellFormed = false := by decide
theorem test_ill_formed_enc : (Instr.enc 65536).wellFormed = false := by decide
theorem test_ill_formed_dec : (Instr.dec 65536).wellFormed = false := by decide
theorem test_ill_formed_sbox : (Instr.sbox 256).wellFormed = false := by decide

/-! ### One command each -/

/-- 40_block_arith.md R123, 95_test_vectors.md B1. -/
theorem test_bxor : bytes (after (exec .bxor opsAF)).res =
    [0xff, 0xfe, 0xfd, 0xfc, 0xfb, 0xfa, 0xf9, 0xf8, 0xf7, 0xf6, 0xf5, 0xf4, 0xf3, 0xf2, 0xf1, 0xf0] := by
  decide +kernel

/-- 40_block_arith.md R124, 95_test_vectors.md B2: no carry between lanes. -/
theorem test_badd : bytes (after (exec .badd opsAF)).res =
    [0xff, 0, 1, 2, 3, 4, 5, 6, 7, 8, 9, 10, 11, 12, 13, 14] := by decide +kernel

/-- 40_block_arith.md R125, 95_test_vectors.md B3. -/
theorem test_brf_add8 : bytes (after (exec .brf opsAF)).res =
    [0xff, 0, 1, 2, 3, 4, 5, 6, 7, 8, 9, 10, 11, 12, 13, 14] := by decide +kernel

/-- 40_block_arith.md R125, 95_test_vectors.md B10. -/
theorem test_brf_ext :
    (after (exec .brf { opsAF with rfsel := .ext })).res = Config.rfExt blockA blockF := rfl

/-- 40_block_arith.md R126, 95_test_vectors.md B11: words of OPA and OPB. -/
theorem test_bsplit :
    let t := after (exec .bsplit { State.reset with blk := plain })
    blockWord t.opa 0 = 0x6c6c6568#32 ∧ blockWord t.opa 3 = 0x6c6c6568#32 ∧
    blockWord t.opb 0 = 0x6874206f#32 ∧ blockWord t.opb 3 = 0x21363532#32 := by decide +kernel

/-- 40_block_arith.md R127, 95_test_vectors.md B13, with the halves told apart. -/
theorem test_bjoin :
    let t := after (exec .bjoin opsAF)
    blockWord t.blk 0 = 0x03020100#32 ∧ blockWord t.blk 3 = 0x0f0e0d0c#32 ∧
    blockWord t.blk 4 = 0xffffffff#32 := by decide +kernel

/-- 41_key_schedule.md R160, 95_test_vectors.md section 3.1. -/
theorem test_expand_fips :
    let t := after (exec .expand { State.reset with rootkey := rootFips, cursor := 7 })
    t.w[0] = 0x2b7e1516#32 ∧ t.w[4] = 0xa0fafe17#32 ∧ t.w[36] = 0xac7766f3#32 ∧
    t.w[43] = 0xb6630ca6#32 ∧ t.keyvalid = true ∧ t.cursor = 0 := by decide +kernel

/-- 95_test_vectors.md section 3.2. -/
theorem test_expand_zero_key :
    let t := after (exec .expand State.reset)
    t.w[4] = 0x62636363#32 ∧ t.w[43] = 0x6f8f188e#32 := by decide +kernel

/-- 41_key_schedule.md R161, 95_test_vectors.md K12, K13. -/
theorem test_setpos_wraps :
    (after (exec (.setpos 11) keyed)).cursor = 0 ∧ (after (exec (.setpos 65535) keyed)).cursor = 8 := by
  decide

/-- 95_test_vectors.md K16. -/
theorem test_setpos_faults :
    statusWord (after (exec (.setpos 11) { keyedFault with pend := 0x1100000B#32 })) = 0x0006000A#32 := by
  decide

/-- 41_key_schedule.md R162, 95_test_vectors.md K7: the words of RoundKey(10) of K. -/
theorem test_getkey_wraps :
    let t := after (exec (.getkey 32) keyedK)
    blockWord t.rkout 0 = 0x7433d217#32 ∧ blockWord t.rkout 1 = 0xdb36539b#32 ∧
    blockWord t.rkout 3 = 0x673cdcf9#32 := by decide +kernel

/-- 95_test_vectors.md K22: ENOKEY stands before EINDEX. -/
theorem test_getkey_fault_order :
    statusWord (after (exec (.getkey 11) { State.reset with oorpol := .fault })) = 0x00050002#32 := by
  decide

/-- 41_key_schedule.md R164, 95_test_vectors.md K9: the key of the old cursor, and the silent wrap. -/
theorem test_nextkey_wraps :
    let t := after (exec .nextkey { keyedK with cursor := 10, oorpol := .fault })
    blockWord t.rkout 0 = 0x7433d217#32 ∧ t.cursor = 0 ∧ t.err = false := by decide +kernel

/-- 95_test_vectors.md K21. -/
theorem test_nextkey_needs_key : statusWord (after (exec .nextkey State.reset)) = 0x00050002#32 := by
  decide

/-- 41_key_schedule.md R165. -/
theorem test_sbox :
    (after (exec (.sbox 0xdc) State.reset)).byteout = 0x86#8 ∧
    (after (exec (.sbox 0x00) State.reset)).byteout = 0x63#8 ∧
    (after (exec (.sbox 0xff) State.reset)).byteout = 0x16#8 := by decide +kernel

/-- 42_feistel.md R191, 95_test_vectors.md section 4.2. -/
theorem test_initf :
    let t := after (exec .initf { State.reset with blk := plain })
    t.left = splitLeft plain ∧ t.right = splitRight plain ∧ statusWord t = 0x00000050#32 := by
  decide +kernel

/-- 42_feistel.md R192, 95_test_vectors.md P2. -/
theorem test_inits : statusWord (after (exec .inits keyed)) = 0x00000098#32 := by decide

/-- 95_test_vectors.md E13. -/
theorem test_inits_needs_key : statusWord (after (exec .inits State.reset)) = 0x00050002#32 := by decide

/-- 42_feistel.md R193, the rule's example: scheduled variant. -/
theorem test_enc_scheduled :
    let t := after (exec (.enc 1) { keyedK with
      engine := .ready, variant := .sched, left := splitLeft plain, right := splitRight plain, cursor := 4 })
    bytes t.left = [0xb3, 0xed, 0xa1, 0xb7, 0xb1, 0xf2, 0xc2, 0xbd,
      0x98, 0xbd, 0xfb, 0x21, 0xf8, 0xfb, 0xd6, 0xfe] ∧
    t.right = splitLeft plain ∧ statusWord t = 0x000001A8#32 := by decide +kernel

/-- 95_test_vectors.md section 4.2: three rounds of the fixed variant. -/
theorem test_enc_fixed :
    let t := after (exec (.enc 3) { readyFixed with
      left := splitLeft plain, right := splitRight plain, fkey := Vector.replicate 16 0x01#8 })
    blockWord t.left 0 = 0x6e6e6576#32 ∧ blockWord t.left 3 = 0x6e6a616e#32 ∧
    blockWord t.right 0 = 0x6a76226f#32 ∧ statusWord t = 0x00000160#32 := by decide +kernel

/-- 42_feistel.md R194, the rule's example. -/
theorem test_dec_scheduled :
    let t := after (exec (.dec 1) { keyedK with
      engine := .final, variant := .sched, lastop := .enc, right := splitLeft plain
      left := #v[0xb3#8, 0xed#8, 0xa1#8, 0xb7#8, 0xb1#8, 0xf2#8, 0xc2#8, 0xbd#8,
        0x98#8, 0xbd#8, 0xfb#8, 0x21#8, 0xf8#8, 0xfb#8, 0xd6#8, 0xfe#8] })
    t.left = splitLeft plain ∧ t.right = splitRight plain ∧ t.cursor = 0 ∧ t.lastop = .dec := by
  decide +kernel

/-- 95_test_vectors.md F2, E12: EVARIANT before EROUNDS, ESEQ in IDLE before EVARIANT. -/
theorem test_dec_fault_order :
    statusWord (after (exec (.dec 0) finalFixed)) = 0x00030162#32 ∧
    statusWord (after (exec (.dec 1) State.reset)) = 0x00020002#32 := by decide

/-- 42_feistel.md R195, 95_test_vectors.md B15. -/
theorem test_join :
    let t := after (exec .join { State.reset with left := blockA, right := blockF })
    blockWord t.blk 0 = 0x03020100#32 ∧ blockWord t.blk 7 = 0xffffffff#32 ∧ statusWord t = 0#32 := by
  decide +kernel

/-- 43_control.md R230: the example. -/
theorem test_nop : statusWord (after (exec .nop (pending 0#32 []))) = 0x00000000#32 := by decide

/-- 43_control.md R231, 95_test_vectors.md C11, C18. -/
theorem test_clrerr :
    let t := after (exec .clrerr { faulted with ovr := true, busy := true, pend := 0x01000000#32 })
    statusWord t = 0x00000000#32 ∧ t.errcmd = 0x02000000#32 := by decide

/-! ### The machine around the commands -/

/-- 95_test_vectors.md C3, C4, C7: an illegal word faults EILLEGAL. -/
theorem test_step_illegal_word :
    let t := after (step (State.reset.withFetchWord 32 0x22010020))
    statusWord t = 0x00010002#32 ∧ t.errcmd = 0x22010020#32 := by decide

/-- The interface runs the placed command as the first step after reset. -/
theorem test_step_placed_command :
    (after (step (State.reset.withFetchWord 32 0x140000dc))).byteout = 0x86#8 := by decide +kernel

/-- 95_test_vectors.md C17: both interleavings of a write after an issue. -/
theorem test_write_after_issue :
    let prog := [HostOp.wr 0x000#9 0x00000000#32, .wr 0x00C#9 0x00000001#32]
    let early := after (Sys2Proof.core.run 3
      { State.reset with host := prog, schedule := [.host, .host, .engine] })
    let late := after (Sys2Proof.core.run 3
      { State.reset with host := prog, schedule := [.host, .engine, .host] })
    early.ovr = true ∧ ctrlWord early = 0#32 ∧ late.ovr = false ∧ ctrlWord late = 1#32 := by decide

/-- 95_test_vectors.md C10, C16: a discarded command and an accepted register write while ERR = 1. -/
theorem test_writes_while_faulted :
    memWrite 0x000#9 0x10000000#32 faulted = faulted ∧
    blockWord (memWrite 0x070#9 0x12345678#32 faulted).opa 0 = 0x12345678#32 := by decide +kernel

/-- 95_test_vectors.md C21, C22. -/
theorem test_reserved_and_ctrl :
    memReadValue 0x1B0#9 (memWrite 0x1B0#9 0x12345678#32 State.reset) = 0x00000000#32 ∧
    memReadValue 0x00C#9 (memWrite 0x00C#9 0xFFFFFFFF#32 State.reset) = 0x00000007#32 := by
  decide +kernel

/-- 95_test_vectors.md P1: the host loads ROOTKEY as words; 20_memory.md R69. -/
theorem test_load_rootkey :
    (load128 0x010#9 rootFips).head? = some (.wr 0x010#9 0x16157e2b#32) ∧
    be32 0x2b#8 0x7e#8 0x15#8 0x16#8 = 0x2b7e1516#32 := by decide +kernel

/-- 70_reset_and_hazards.md R280: a host access under reset is refused. -/
theorem test_host_access_in_reset :
    step { State.reset with rst := true, host := [.rd 0x004#9], schedule := [.host] } =
      .refused .hostAccessInReset := rfl

/-- 30_encoding.md R98: a host program of a write and a read, run by the machine. -/
theorem test_host_program :
    let t := after (Sys2Proof.core.run 2 { State.reset with
      host := [.wr 0x010#9 0x16157e2b#32, .rd 0x010#9] })
    t.reads = [0x16157e2b#32] ∧ bytes t.rootkey = [0x2b, 0x7e, 0x15, 0x16] ++ List.replicate 12 0 := by
  decide +kernel

/-! ### Witnesses: states and operands that meet the hypotheses of the statements, clause by clause -/

theorem witness_DecodeOfEncodeIsTheCommand :
    (Instr.setpos 65535).wellFormed = true ∧ (Instr.getkey 0).wellFormed = true ∧
    (Instr.enc 65535).wellFormed = true ∧ (Instr.dec 1).wellFormed = true ∧
    (Instr.sbox 255).wellFormed = true ∧ Instr.join.wellFormed = true := by decide

theorem witness_EncodeOfDecodeIsTheWord : decode 0x140000FF#32 = .ok (.sbox 255) := by decide

theorem witness_DecodeAcceptsExactlyTheRowsOfTheMap :
    ∃ r ∈ opcodeRows, r.mnemonic = "SBOX" ∧ 0x140000FF#32 &&& r.mask = r.matchWord := by decide

theorem witness_StrayBitsAndUnassignedOpcodesAreIllegal :
    (∀ r ∈ opcodeRows, (0x35000000#32).extractLsb' 24 8 ≠ r.matchWord.extractLsb' 24 8) ∧
    (0x11FF0000#32).extractLsb' 16 8 ≠ 0#8 ∧
    (0x24008000#32).extractLsb' 24 8 ∉ [0x11#8, 0x12#8, 0x14#8, 0x22#8, 0x23#8] ∧
    (0x24008000#32).extractLsb' 0 16 ≠ 0#16 ∧
    (0x14000100#32).extractLsb' 24 8 = 0x14#8 ∧ (0x14000100#32).extractLsb' 8 8 ≠ 0#8 := by decide

theorem witness_StepRunsTheDecodedCommand :
    engineMovesNext (pending 0x11000005#32 []) ∧
    decode (pending 0x11000005#32 []).pend = .ok (.setpos 5) ∧
    engineMovesNext (pending 0x23000001#32 [.engine, .host]) ∧
    decode (pending 0x23000001#32 [.engine, .host]).pend = .ok (.dec 1) :=
  ⟨⟨rfl, rfl, .inl rfl⟩, rfl, ⟨rfl, rfl, .inr rfl⟩, rfl⟩

theorem witness_WordOutsideTheMapFaultsEillegal :
    engineMovesNext (pending 0x02000000#32 []) ∧
    ∀ r ∈ opcodeRows, (pending 0x02000000#32 []).pend &&& r.mask ≠ r.matchWord :=
  ⟨⟨rfl, rfl, .inl rfl⟩, by decide⟩

theorem witness_PendingCommandCompletesWithinTheInterleaving :
    (pending 0x00000000#32 [.host, .rstRelease]).Inv ∧
    (pending 0x00000000#32 [.host, .rstRelease]).busy = true := by
  refine ⟨⟨?_, ?_, ?_, ?_, ?_, ?_⟩, rfl⟩ <;>
    simp [schedHasKey, engineConsistent, faultConsistent, onlyClrerrPending, tableConsistent,
      resetHeld, pending, State.reset]

theorem witness_HostStepsWhileBusyLeaveTheOperands :
    (pending 0x30000000#32 [.host, .host, .engine]).rst = false ∧
    (pending 0x30000000#32 [.host, .host, .engine]).busy = true ∧
    (pending 0x30000000#32 [.host, .host, .engine]).schedule = List.replicate 2 .host ++ [.engine] :=
  ⟨rfl, rfl, rfl⟩

theorem witness_ResetInputResetsEveryRegister :
    (pending 0x10000000#32 [.rstAssert, .engine]).schedule = .rstAssert :: [.engine] ∧
    { State.reset with rst := true, schedule := [.engine] }.rst = true ∧
    { State.reset with rst := true, schedule := [.engine] }.schedule = .engine :: [] ∧
    { State.reset with rst := true, schedule := [.host], host := [.wait] }.schedule = .host :: [] ∧
    { State.reset with rst := true, schedule := [.host], host := [.wait] }.host = .wait :: [] ∧
    { State.reset with rst := true, schedule := [.rstRelease] }.schedule = .rstRelease :: [] :=
  ⟨rfl, rfl, rfl, rfl, rfl, rfl⟩

theorem witness_ReachableInvariantIsKeptByEveryStep :
    (pending 0x10000000#32 []).Inv ∧
    step (pending 0x10000000#32 []) = .next { pending 0x10000000#32 [] with
      w := keyExpansion State.reset.rootkey, keyvalid := true, busy := false } := by
  refine ⟨⟨?_, ?_, ?_, ?_, ?_, ?_⟩, rfl⟩ <;>
    simp [schedHasKey, engineConsistent, faultConsistent, onlyClrerrPending, tableConsistent,
      resetHeld, pending, State.reset]

theorem witness_CmdWriteIssuesOrIsDiscarded :
    engineMovesNext (pending 0xFFFFFFFF#32 [.engine]) ∧ (pending 0#32 []).busy = true ∧ faulted.busy = false ∧ faulted.err = true ∧
    0x10000000#32 ≠ 0x01000000#32 ∧ State.reset.busy = false ∧ State.reset.err = false :=
  ⟨⟨rfl, rfl, .inr rfl⟩, by decide⟩

theorem witness_WriteWhileBusyOnlySetsOvr : (pending 0#32 []).busy = true := rfl

theorem witness_LowAddressBitsAreIgnored :
    (0x000#9) >>> 2 = (0x003#9) >>> 2 ∧ (0x1FC#9) >>> 2 = (0x1FF#9) >>> 2 := by decide

theorem witness_ReadsChangeNoRegister :
    (0x004#9) >>> 2 = 1#9 ∧ (0x007#9) >>> 2 = 1#9 ∧ (0x003#9) >>> 2 ≠ 1#9 ∧ (0x008#9) >>> 2 ≠ 1#9 ∧
    (pending 0#32 []).busy = true := by decide

theorem witness_BlockWriteSetsExactlyFourBytes : State.reset.busy = false := rfl

theorem witness_BlockReadsAreLittleEndian : opsAF.busy = false := rfl

theorem witness_OtherWindowWordsReadAsTheMapSays :
    keyed.busy = false ∧ 0x0B4 ≤ (0x0B4#9).toNat ∧ (0x0B4#9).toNat < 0x100 ∧
    0x0B4 ≤ (0x0FF#9).toNat ∧ (0x0FF#9).toNat < 0x100 ∧ 0x1B0 ≤ (0x1B0#9).toNat ∧
    0x1B0 ≤ (0x1FF#9).toNat := by decide

theorem witness_ReadOnlyAndReservedWordsIgnoreWrites :
    State.reset.busy = false ∧ 0x004 ≤ (0x004#9).toNat ∧ (0x004#9).toNat < 0x00C ∧
    0x004 ≤ (0x00B#9).toNat ∧ (0x00B#9).toNat < 0x00C ∧ 0x050 ≤ (0x050#9).toNat ∧
    (0x050#9).toNat < 0x070 ∧ 0x050 ≤ (0x06F#9).toNat ∧ (0x06F#9).toNat < 0x070 ∧
    0x090 ≤ (0x090#9).toNat ∧ 0x090 ≤ (0x1FF#9).toNat := by decide

theorem witness_CtrlWriteTakesThreeBits : faulted.busy = false := rfl

theorem witness_StatusFieldsShowTheState :
    State.reset.engine = .idle ∧ readyFixed.engine = .ready ∧ finalFixed.engine = .final ∧
    State.reset.variant = .none ∧ readyFixed.variant = .fixed ∧ readySched.variant = .sched ∧
    readyFixed.lastop = .none ∧ finalFixed.lastop = .enc ∧
    { finalEncFault with lastop := .dec }.lastop = .dec ∧
    State.reset.ecode = .none ∧ faulted.ecode = .eillegal ∧
    (raiseFault .eindex keyedFault).ecode = .eindex := by decide

/-- Each access, with the turn named by the interleaving and by default; a WAIT also while BUSY = 1. -/
theorem witness_HostStepPerformsTheNextAccess :
    let s := { State.reset with host := [HostOp.wr 0x1FF#9 7#32, .rd 0x000#9, .wait] }
    hostMovesNext s ∧ s.host = .wr 0x1FF#9 7#32 :: [.rd 0x000#9, .wait] ∧
    hostMovesNext { s with schedule := [.host, .engine], host := [.rd 0x000#9] } ∧
    hostMovesNext { pending 0#32 [.host] with host := [.wait] } ∧ hostMovesNext State.reset ∧
    State.reset.host = [] :=
  ⟨⟨rfl, .inr ⟨rfl, rfl⟩⟩, rfl, ⟨rfl, .inl rfl⟩, ⟨rfl, .inl rfl⟩, ⟨rfl, .inr ⟨rfl, rfl⟩⟩, rfl⟩

theorem witness_FaultingCommandIsPrecise :
    keyedFault.err = false ∧
    exec (.setpos 11) keyedFault = .next (raiseFault .eindex keyedFault) ∧
    (raiseFault .eindex keyedFault).err = true ∧
    runPending (pending 0x02000000#32 []) =
      .next (raiseFault .eillegal (pending 0x02000000#32 [])) := ⟨rfl, rfl, rfl, rfl⟩

/-- Every fault code that a command's own checks raise, at a boundary operand. -/
theorem witness_FaultCodesComeFromTheirCommands :
    exec (.enc 1) State.reset = .next (raiseFault .eseq State.reset) ∧
    exec (.dec 1) readyFixed = .next (raiseFault .evariant readyFixed) ∧
    exec (.enc 0) readyFixed = .next (raiseFault .erounds readyFixed) ∧
    exec (.getkey 0) State.reset = .next (raiseFault .enokey State.reset) ∧
    exec (.getkey 11) keyedFault = .next (raiseFault .eindex keyedFault) ∧
    exec (.enc 12) readySchedFault = .next (raiseFault .eindex readySchedFault) :=
  ⟨rfl, rfl, rfl, rfl, rfl, rfl⟩

theorem witness_FaultsDoNotNest :
    let s := { faulted with host := [HostOp.wr 0x000#9 0x10000000#32] }
    s.Inv ∧ s.err = true ∧ step s = .next faulted ∧ faulted.err = true := by
  refine ⟨⟨?_, ?_, ?_, ?_, ?_, ?_⟩, rfl, rfl, rfl⟩ <;>
    simp [schedHasKey, engineConsistent, faultConsistent, onlyClrerrPending, tableConsistent,
      resetHeld, faulted, State.reset]

theorem witness_ErrorOutputFollowsErrAndErrie :
    { faulted with errie := true }.busy = false ∧ (0xFFFFFFFB#32).getLsbD 2 = false := by decide

theorem witness_NopOnlyCompletes :
    (0x00000001#32).extractLsb' 24 8 = 0x00#8 ∧ 0x00000001#32 ≠ 0#32 ∧
    faulted.busy = false ∧ faulted.err = true ∧ (pending 0#32 []).busy = true := by decide

theorem witness_ClrerrClearsTheFaultState :
    faulted.busy = false ∧ faulted.err = true ∧ 0x00000000#32 ≠ 0x01000000#32 ∧
    State.reset.busy = false := by decide

theorem witness_BrfAppliesTheSelectedRoundFunction :
    { opsAF with rfsel := .ext }.rfsel = .ext ∧ opsAF.rfsel = .add8 := ⟨rfl, rfl⟩

theorem witness_SboxIsABijectionWithTheKnownAnswer : sbox 0xff#8 = sbox (0x00#8 - 1#8) := by
  decide +kernel

theorem witness_KeyExpansionFollowsTheRecurrence : 0 < 9 ∧ 8 < 9 ∧ 4 < 44 ∧ 4 ≤ 4 ∧ 43 < 44 ∧ 4 ≤ 43 := by decide

theorem witness_SetposMovesTheCursorOrFaults :
    State.reset.keyvalid = false ∧ keyedFault.keyvalid = true ∧ keyedFault.oorpol = .fault ∧
    10 < 11 ∧ 10 ≤ 10 ∧ keyed.keyvalid = true ∧ keyed.oorpol = .wrap ∧ 65535 < 65536 := by decide

theorem witness_GetkeyReturnsTheRoundKeyOrFaults :
    State.reset.keyvalid = false ∧ keyedFault.keyvalid = true ∧ keyedFault.oorpol = .fault ∧
    10 < 11 ∧ 10 ≤ 10 ∧ keyed.keyvalid = true ∧ keyed.oorpol = .wrap ∧ 65535 < 65536 := by decide

theorem witness_NextkeyReturnsTheKeyAndAdvances :
    State.reset.keyvalid = false ∧ { keyed with cursor := 10 }.keyvalid = true ∧
    { keyed with cursor := 10 }.cursor.val = 10 := by decide

theorem witness_NextkeyWalkAgreesWithGetkey :
    keyed.keyvalid = true ∧ keyed.cursor = 0 ∧ keyed.oorpol = .wrap ∧
    keyedFault.keyvalid = true ∧ keyedFault.cursor = 0 ∧ 10 ≤ 10 := by decide

theorem witness_OnlyExpandAndResetChangeTheTable :
    let s := pending 0x10000000#32 []
    let t := { s with w := keyExpansion State.reset.rootkey, keyvalid := true, busy := false }
    let u := { State.reset with w := Vector.replicate 44 1#32, schedule := [.rstAssert] }
    step s = .next t ∧ t.w[4] ≠ s.w[4] ∧
    step u = .next { State.reset with rst := true } ∧ State.reset.w[0] ≠ u.w[0] :=
  ⟨rfl, by decide +kernel, rfl, by decide +kernel⟩

theorem witness_OnlyTheNamedCommandsChangeTheCursor :
    exec (.setpos 10) keyedFault = .next { keyedFault with cursor := 10 } ∧
    exec .expand { keyed with cursor := 10 } =
      .next { keyed with w := keyExpansion State.reset.rootkey } ∧
    exec (.enc 1) { readySched with cursor := 10 } =
      .next (complete (encPass 1 { readySched with cursor := 10 })) ∧
    (encPass 1 { readySched with cursor := 10 }).cursor ≠ 10 ∧
    step { keyed with pend := 0x1100000A#32, busy := true } =
      .next { keyed with pend := 0x1100000A#32, cursor := 10 } ∧
    step { keyed with cursor := 10, schedule := [.rstAssert] } =
      .next { State.reset with rst := true } :=
  ⟨rfl, rfl, rfl, by decide, rfl, rfl⟩

theorem witness_InitsConstructsTheScheduledEngine :
    State.reset.keyvalid = false ∧ keyed.keyvalid = true := ⟨rfl, rfl⟩

theorem witness_EncFixedRunsRoundsWithFkey :
    readyFixed.engine = .ready ∧ readyFixed.variant = .fixed ∧ 65535 ≠ 0 := by decide

theorem witness_EncScheduledRunsRoundsInRisingOrder :
    readySchedFault.engine = .ready ∧ readySchedFault.variant = .sched ∧ 11 ≠ 0 ∧
    withinPolicy readySchedFault 11 ∧ withinPolicy readySched 65535 :=
  ⟨rfl, rfl, by decide, fun _ => by decide, fun h => nomatch h⟩

theorem witness_DecScheduledRunsRoundsInFallingOrder :
    finalEncFault.variant = .sched ∧ finalEncFault.engine = .final ∧ finalEncFault.lastop = .enc ∧
    11 ≠ 0 ∧ withinPolicy finalEncFault 11 ∧ readySched.variant = .sched ∧
    readySched.engine = .ready ∧ withinPolicy readySched 12 :=
  ⟨rfl, rfl, rfl, by decide, fun _ => by decide, rfl, rfl, fun h => nomatch h⟩

theorem witness_EncFaultsInTheStatedOrder :
    State.reset.engine ≠ .ready ∧ finalFixed.engine ≠ .ready ∧ readyFixed.engine = .ready ∧
    readySchedFault.engine = .ready ∧ readySchedFault.variant = .sched ∧
    readySchedFault.oorpol = .fault ∧ 11 < 12 := by decide

theorem witness_DecFaultsInTheStatedOrder :
    State.reset.engine = .idle ∧ finalFixed.engine ≠ .idle ∧ finalFixed.variant = .fixed ∧
    { finalEncFault with lastop := .dec }.engine = .final ∧
    { finalEncFault with lastop := .dec }.lastop ≠ .enc ∧
    { finalEncFault with lastop := .dec }.variant = .sched ∧ readySched.variant = .sched ∧
    readySched.engine = .ready ∧ finalEncFault.engine = .final ∧ finalEncFault.lastop = .enc ∧
    finalEncFault.oorpol = .fault ∧ 11 < 12 := by decide

theorem witness_EngineStateChangesOnlyAsTheTableSays :
    exec .inits keyed = .next (complete { keyed with
      left := splitLeft keyed.blk, right := splitRight keyed.blk
      engine := .ready, variant := .sched, lastop := .none }) ∧
    (EngineState.ready, Variant.sched, LastOp.none) ≠ (keyed.engine, keyed.variant, keyed.lastop) ∧
    step (pending 0x20000000#32 []) = exec .initf (pending 0x20000000#32 []) ∧
    (after (exec .initf (pending 0x20000000#32 []))).engine ≠ (pending 0x20000000#32 []).engine ∧
    step { finalFixed with schedule := [.rstAssert] } = .next { State.reset with rst := true } :=
  ⟨rfl, by decide, rfl, by decide, rfl⟩

/-- At the largest round count that OORPOL = FAULT admits; the state t of ENC is the state u before DEC. -/
theorem witness_DecUndoesEnc :
    let t := complete (encPass 11 readySchedFault)
    readySchedFault.variant = .sched ∧ readySchedFault.err = false ∧
    exec (.enc 11) readySchedFault = .next t ∧ t.err = false :=
  ⟨rfl, rfl, rfl, rfl⟩

theorem witness_EncryptDecryptJoinRestoresBlk :
    keyedFault.keyvalid = true ∧ 11 ≠ 0 ∧ withinPolicy keyedFault 11 :=
  ⟨rfl, by decide, fun _ => by decide⟩

theorem witness_ZeroKeyFixedVariantHasPeriodThree :
    let s := { readyFixed with left := blockA, right := blockF }
    s.engine = .ready ∧ s.variant = .fixed ∧ s.rfsel = .add8 ∧ (∀ j : Fin 16, s.fkey[j] = 0#8) ∧
    1 ≠ 0 ∧ exec (.enc 1) s = .next (complete (encPass 1 s)) ∧
    exec (.enc (1 + 3)) s = .next (complete (encPass 4 s)) :=
  ⟨rfl, rfl, rfl, by decide, by decide, rfl, rfl⟩

end Sys2Proof.Tests
end

section
/-!
The completion of a pending command (00_scope.md R13, 70_reset_and_hazards.md R284). Each turn of the
interleaving either ends with BUSY = 0 or leaves the command pending with one turn less to come, and
once no turn is left the ENGINE moves.
-/

namespace Sys2Proof.Machine

open Sys2Proof

/-! ### The step by what the interleaving names -/

/-- A step takes the turn at the head of the interleaving (00_scope.md R13). -/
theorem step_of_schedule_cons {s : State} {a : Turn} {rest : List Turn} (h : s.schedule = a :: rest) :
    step s = takeTurn a { s with schedule := rest } := by
  simp [step, h]

/-- With the interleaving used up a pending command executes (00_scope.md R13; log entry 1). -/
theorem step_of_schedule_nil_busy {s : State} (h : s.schedule = []) (hr : s.rst = false)
    (hb : s.busy = true) : step s = engineTurn s := by
  simp [step, h, defaultTurn, hr, hb]

/-! ### The ENGINE's turn completes the pending command -/

/-- Executing PEND ends in a next state with BUSY = 0, whether or not the word decodes
(30_encoding.md R92). -/
theorem runPending_completes (s : State) : ∃ t, runPending s = .next t ∧ t.busy = false := by
  cases hd : decode s.pend with
  | error e => exact ⟨raiseFault .eillegal s, by simp [runPending, hd], raiseFault_busy _ s⟩
  | ok i =>
    have hrun : runPending s = exec i s := by simp [runPending, hd]
    rw [hrun]
    exact exec_completes i s

theorem engineTurn_completes {s : State} (hr : s.rst = false) (hb : s.busy = true) :
    ∃ t, engineTurn s = .next t ∧ t.busy = false := by
  have hrun : engineTurn s = runPending s := by simp [engineTurn, hr, hb]
  rw [hrun]
  exact runPending_completes s

/-! ### The HOST's turn leaves the command pending -/

/-- Outside reset no host access is refused (20_memory.md R61). -/
theorem hostTurn_answers {s : State} (hr : s.rst = false) : ∃ t, hostTurn s = .next t := by
  cases hh : s.host with
  | nil => exact ⟨s, by simp [hostTurn, hh]⟩
  | cons op rest => cases op <;> simp [hostTurn, hh, hr]

/-- While BUSY = 1 a host turn changes no register of the block but OVR (20_memory.md R60, R70). -/
theorem hostTurn_busy_frame {s t : State} (hb : s.busy = true) (h : hostTurn s = .next t) :
    t = { s with ovr := t.ovr, host := t.host, reads := t.reads, draws := t.draws } := by
  rcases hostTurn_next h with ⟨-, rfl⟩ | ⟨-, op, rest, -, ⟨a, -, rfl⟩ | ⟨a, v, -, rfl⟩ | ⟨-, rfl⟩⟩
  · rfl
  · rfl
  · rw [memWrite_busy (s := { s with host := rest }) hb]
  · rfl

/-! ### Completion within a number of steps -/

/-- Some state with BUSY = 0 is reached from s in at most k steps. -/
def CompletesWithin (k : Nat) (s : State) : Prop :=
  ∃ n, n ≤ k ∧ ∃ t : State, Sys2Proof.core.run n s = .next t ∧ t.busy = false

theorem completesWithin_of_step {s t : State} (k : Nat) (h : step s = .next t)
    (ht : t.busy = false) : CompletesWithin (k + 1) s :=
  ⟨1, by omega, t, run_succ 0 h, ht⟩

theorem CompletesWithin.before_step {s t : State} {k : Nat} (ht : CompletesWithin k t)
    (h : step s = .next t) : CompletesWithin (k + 1) s := by
  obtain ⟨n, hn, u, hrun, hu⟩ := ht
  exact ⟨n + 1, by omega, u, (run_succ n h).trans hrun, hu⟩

/-- By induction on the interleaving: an ENGINE turn or an assertion of reset ends it with BUSY = 0, a
HOST turn or a release of reset leaves the command pending for the turns that follow. -/
theorem completesWithin_schedule {s : State} (hr : s.rst = false) (hb : s.busy = true) :
    CompletesWithin (s.schedule.length + 1) s := by
  induction hs : s.schedule generalizing s with
  | nil =>
    obtain ⟨t, ht, hidle⟩ := engineTurn_completes hr hb
    exact completesWithin_of_step _ ((step_of_schedule_nil_busy hs hr hb).trans ht) hidle
  | cons a rest ih =>
    have hstep := step_of_schedule_cons hs
    cases a with
    | engine =>
      obtain ⟨t, ht, hidle⟩ := engineTurn_completes (s := { s with schedule := rest }) hr hb
      exact completesWithin_of_step _ (hstep.trans ht) hidle
    | host =>
      obtain ⟨t, ht⟩ := hostTurn_answers (s := { s with schedule := rest }) hr
      have hframe := hostTurn_busy_frame (s := { s with schedule := rest }) hb ht
      have hpending : CompletesWithin (rest.length + 1) t :=
        ih (by rw [hframe]; exact hr) (by rw [hframe]; exact hb) (by rw [hframe])
      exact hpending.before_step (hstep.trans ht)
    | rstAssert => exact completesWithin_of_step _ hstep (assertReset_busy _)
    | rstRelease =>
      have hpending : CompletesWithin (rest.length + 1) (releaseReset { s with schedule := rest }) :=
        ih rfl hb rfl
      exact hpending.before_step hstep

/-- A command is pending only outside reset (70_reset_and_hazards.md R280). -/
theorem rst_eq_false_of_busy {s : State} (h : resetHeld s) (hb : s.busy = true) : s.rst = false := by
  by_contra hr
  have hreset : s = assertReset s := h (by simpa using hr)
  rw [hreset] at hb
  cases hb

/-- Settles O8, from the part of the invariant that says what reset holds. -/
theorem pendingCommandCompletesWithinTheInterleaving :
    Obligations.PendingCommandCompletesWithinTheInterleaving := by
  intro s hinv hb
  obtain ⟨-, -, -, -, -, hheld⟩ := hinv
  exact completesWithin_schedule (rst_eq_false_of_busy hheld hb) hb

end Sys2Proof.Machine
end

section
/-!
CTRL and STATUS as the host reads them (10_state.md R22, R23), and who can change CURSOR (R29). Both
words are sums of codes, each at its field's lowest bit and within its field, so a field of the word
is a digit of the sum.
-/

namespace Sys2Proof.Machine

open Sys2Proof

/-! ### Bits and fields of a word as digits of its value -/

theorem toNat_getLsbD {w : Nat} (x : BitVec w) (k : Nat) :
    (x.getLsbD k).toNat = x.toNat / 2 ^ k % 2 :=
  Nat.toNat_testBit x.toNat k

theorem getLsbD_eq_of_digit {w k : Nat} {x : BitVec w} {b : Bool}
    (h : x.toNat / 2 ^ k % 2 = b.toNat) : x.getLsbD k = b := by
  rw [BitVec.getLsbD, Nat.testBit_eq_decide_div_mod_eq, h]
  cases b <;> rfl

theorem extractLsb'_eq_of_digit {w k n : Nat} {x : BitVec w} {c : BitVec n}
    (h : x.toNat / 2 ^ k % 2 ^ n = c.toNat) : x.extractLsb' k n = c := by
  apply BitVec.eq_of_toNat_eq
  rw [BitVec.extractLsb'_toNat, Nat.shiftRight_eq_div_pow, h]

/-! ### The codes fit their fields -/

theorem engineStateCode_lt (e : EngineState) : engineStateCode e < 2 ^ 2 := by
  cases e <;> decide

theorem variantCode_lt (v : Variant) : variantCode v < 2 ^ 2 := by
  cases v <;> decide

theorem lastOpCode_lt (o : LastOp) : lastOpCode o < 2 ^ 2 := by
  cases o <;> decide

theorem faultCodeValue_lt (c : FaultCode) : faultCodeValue c < 2 ^ 4 := by
  cases c <;> decide

/-! ### STATUS -/

/-- The digits of STATUS, from bit 0 up: no field carries into the next, and the reserved fields are
0 (10_state.md R23). -/
theorem statusWord_digits (s : State) :
    (statusWord s).toNat / 2 ^ 0 % 2 = s.busy.toNat ∧
    (statusWord s).toNat / 2 ^ 1 % 2 = s.err.toNat ∧
    (statusWord s).toNat / 2 ^ 2 % 2 = s.ovr.toNat ∧
    (statusWord s).toNat / 2 ^ 3 % 2 = s.keyvalid.toNat ∧
    (statusWord s).toNat / 2 ^ 4 % 2 ^ 2 = engineStateCode s.engine ∧
    (statusWord s).toNat / 2 ^ 6 % 2 ^ 2 = variantCode s.variant ∧
    (statusWord s).toNat / 2 ^ 8 % 2 ^ 2 = lastOpCode s.lastop ∧
    (statusWord s).toNat / 2 ^ 10 % 2 ^ 2 = 0 ∧
    (statusWord s).toNat / 2 ^ 12 % 2 ^ 4 = s.cursor.val ∧
    (statusWord s).toNat / 2 ^ 16 % 2 ^ 4 = faultCodeValue s.ecode ∧
    (statusWord s).toNat / 2 ^ 20 % 2 ^ 12 = 0 := by
  have hbusy := s.busy.toNat_lt
  have herr := s.err.toNat_lt
  have hovr := s.ovr.toNat_lt
  have hkey := s.keyvalid.toNat_lt
  have hengine := engineStateCode_lt s.engine
  have hvariant := variantCode_lt s.variant
  have hlastop := lastOpCode_lt s.lastop
  have hcursor := s.cursor.isLt
  have hecode := faultCodeValue_lt s.ecode
  simp only [statusWord, BitVec.toNat_ofNat]
  refine ⟨?_, ?_, ?_, ?_, ?_, ?_, ?_, ?_, ?_, ?_, ?_⟩ <;> omega

/-- Settles O23: each field is a digit of STATUS, and each code is the one the tables list. -/
theorem statusFieldsShowTheState : Obligations.StatusFieldsShowTheState := by
  intro s
  obtain ⟨hbusy, herr, hovr, hkey, hengine, hvariant, hlastop, hlow, hcursor, hecode, hhigh⟩ :=
    statusWord_digits s
  have hengines : ∀ c ∈ [(EngineState.idle, 0#2), (.ready, 1#2), (.final, 2#2)],
      engineStateCode c.1 = c.2.toNat := by decide
  have hvariants : ∀ c ∈ [(Variant.none, 0#2), (.fixed, 1#2), (.sched, 2#2)],
      variantCode c.1 = c.2.toNat := by decide
  have hlastops : ∀ c ∈ [(LastOp.none, 0#2), (.enc, 1#2), (.dec, 2#2)],
      lastOpCode c.1 = c.2.toNat := by decide
  have hecodes : ∀ c ∈ [(FaultCode.none, 0#4), (.eillegal, 1#4), (.eseq, 2#4), (.evariant, 3#4),
      (.erounds, 4#4), (.enokey, 5#4), (.eindex, 6#4)], faultCodeValue c.1 = c.2.toNat := by decide
  refine ⟨getLsbD_eq_of_digit hbusy, getLsbD_eq_of_digit herr, getLsbD_eq_of_digit hovr,
    getLsbD_eq_of_digit hkey, fun c hc he => ?engine, fun c hc he => ?variant,
    fun c hc he => ?lastop, extractLsb'_eq_of_digit hlow, ?cursor, fun c hc he => ?ecode,
    extractLsb'_eq_of_digit hhigh⟩
  case engine => exact extractLsb'_eq_of_digit (by rw [hengine, he, hengines c hc])
  case variant => exact extractLsb'_eq_of_digit (by rw [hvariant, he, hvariants c hc])
  case lastop => exact extractLsb'_eq_of_digit (by rw [hlastop, he, hlastops c hc])
  case cursor => rw [BitVec.extractLsb'_toNat, Nat.shiftRight_eq_div_pow, hcursor]
  case ecode => exact extractLsb'_eq_of_digit (by rw [hecode, he, hecodes c hc])

/-! ### CTRL -/

/-- The address of CTRL (20_memory.md R63). -/
theorem addressed_ctrl : addressed 0x00C#9 = .ctrl := by decide

theorem memWrite_ctrl {s : State} (h : s.busy = false) (v : Word) :
    memWrite 0x00C#9 v s = writeCtrl v s := by
  rw [memWrite_idle h, addressed_ctrl, writeReg]

theorem memReadValue_ctrl {s : State} (h : s.busy = false) :
    memReadValue 0x00C#9 s = ctrlWord s := by
  simp [memReadValue, h, addressed_ctrl, readReg]

theorem indexPolicyCode_ite (b : Bool) :
    indexPolicyCode (if b then .fault else .wrap) = b.toNat := by
  cases b <;> rfl

theorem roundFnCode_ite (b : Bool) : roundFnCode (if b then .ext else .add8) = b.toNat := by
  cases b <;> rfl

/-- CTRL reads back the three bits of the word written (10_state.md R22). -/
theorem ctrlWord_writeCtrl (v : Word) (s : State) : ctrlWord (writeCtrl v s) = v &&& 7#32 := by
  have hmask : (v &&& 7#32).toNat = v.toNat % 2 ^ 3 := by
    rw [BitVec.toNat_and, ← Nat.and_two_pow_sub_one_eq_mod]; rfl
  apply BitVec.eq_of_toNat_eq
  rw [hmask]
  simp only [ctrlWord, writeCtrl_oorpol, writeCtrl_rfsel, writeCtrl_errie, indexPolicyCode_ite,
    roundFnCode_ite, toNat_getLsbD, BitVec.toNat_ofNat]
  omega

/-- Settles O22: a write of CTRL while BUSY = 0 is writeCtrl, and leaves BUSY = 0 for the read. -/
theorem ctrlWriteTakesThreeBits : Obligations.CtrlWriteTakesThreeBits := by
  intro s v hidle
  have hidle' : (writeCtrl v s).busy = false := (writeCtrl_busy v s).trans hidle
  rw [memWrite_ctrl hidle, memReadValue_ctrl hidle', ctrlWord_writeCtrl]
  exact ⟨rfl, rfl⟩

/-! ### CURSOR -/

theorem execGetkey_cursor {i : Nat} {s t : State} (h : execGetkey i s = .next t) :
    t.cursor = s.cursor := by
  rcases execGetkey_next h with ⟨-, rfl⟩ | ⟨-, -, -, rfl⟩ | ⟨-, -, rfl⟩
  · exact raiseFault_cursor _ s
  · exact raiseFault_cursor _ s
  · exact complete_cursor _

theorem execInits_cursor {s t : State} (h : execInits s = .next t) : t.cursor = s.cursor := by
  rcases execInits_next h with ⟨-, rfl⟩ | ⟨-, rfl⟩
  · exact raiseFault_cursor _ s
  · exact complete_cursor _

/-- ENC moves CURSOR on the scheduled variant only (42_feistel.md R193). -/
theorem execEnc_cursor {n : Nat} {s t : State} (h : execEnc n s = .next t)
    (hv : s.variant ≠ .sched) : t.cursor = s.cursor := by
  rcases execEnc_next h with ⟨-, rfl⟩ | ⟨-, -, rfl⟩ | ⟨-, hsched, -⟩ | ⟨-, -, -, rfl⟩
  · exact raiseFault_cursor _ s
  · exact raiseFault_cursor _ s
  · exact absurd hsched hv
  · rw [complete_cursor, encPass_cursor, if_neg hv]

/-- A command that changes CURSOR is one whose rule writes it (10_state.md R29). -/
theorem writesCursor_of_exec {i : Instr} {s t : State} (h : exec i s = .next t)
    (hne : t.cursor ≠ s.cursor) : writesCursor i s := by
  cases i with
  | nextkey => exact .inl rfl
  | expand => exact .inr (.inl rfl)
  | setpos n => exact .inr (.inr ⟨n, .inl rfl⟩)
  | dec n => exact .inr (.inr ⟨n, .inr (.inl rfl)⟩)
  | enc n =>
    have hsched : s.variant = .sched := by_contra fun hv => hne (execEnc_cursor h hv)
    exact .inr (.inr ⟨n, .inr (.inr ⟨rfl, hsched⟩)⟩)
  | getkey n => exact absurd (execGetkey_cursor h) hne
  | inits => exact absurd (execInits_cursor h) hne
  | _ => cases h; simp at hne

/-- Settles O48: a step touches CURSOR through a decoded command or reset only, and a command only
as its rule says. -/
theorem onlyTheNamedCommandsChangeTheCursor :
    Obligations.OnlyTheNamedCommandsChangeTheCursor := by
  refine ⟨fun i s t => writesCursor_of_exec, fun s t h hne => ?_⟩
  rcases step_scheduler_engine h with ⟨hmoves, i, hdecode, hexec⟩ | ⟨hreset, rfl⟩ | ⟨-, hkeep, -⟩
  · have hwrites := writesCursor_of_exec hexec hne
    exact .inl ⟨hmoves, i, hdecode, hwrites⟩
  · exact .inr ⟨hreset, assertReset_cursor _⟩
  · exact absurd hkeep hne

end Sys2Proof.Machine
end

section
/-!
The host window (20_memory.md): which row of the map an address selects, what each row reads and
which rows take a write, and what the host can do while a command is pending. Reads and writes
depend on the address through the selected row alone, so each statement is a fact about the map and
a fact about that row.
-/

namespace Sys2Proof.Machine

open Sys2Proof

/-! ### The word that an address names -/

theorem wordIndex_eq_div (a : WindowAddr) : wordIndex a = a.toNat / 4 := by
  have h := a.isLt
  simp only [wordIndex, BitVec.extractLsb'_toNat, Nat.shiftRight_eq_div_pow]
  omega

theorem wordIndex_eq_shift (a : WindowAddr) : wordIndex a = (a >>> 2).toNat := by
  rw [wordIndex_eq_div, BitVec.toNat_ushiftRight, Nat.shiftRight_eq_div_pow]

/-- An access sees bits [8:2] of its address only (20_memory.md R60, R61). -/
theorem addressed_congr {a b : WindowAddr} (h : a >>> 2 = b >>> 2) : addressed a = addressed b := by
  rw [addressed, addressed, wordIndex_eq_shift, wordIndex_eq_shift, h]

/-! ### The rows of the window map (20_memory.md R63) -/

theorem addressed_cmd : addressed 0x000#9 = .cmd := by decide

theorem addressed_errcmd : addressed 0x008#9 = .errcmd := by decide

theorem addressed_byteout : addressed 0x0B0#9 = .byteout := by decide

/-- The words of the 16-byte blocks. -/
theorem addressed_block128 (k : Fin 4) :
    addressed (0x010#9 + BitVec.ofNat 9 (4 * k)) = .rootkey k ∧
    addressed (0x020#9 + BitVec.ofNat 9 (4 * k)) = .fkey k ∧
    addressed (0x050#9 + BitVec.ofNat 9 (4 * k)) = .left k ∧
    addressed (0x060#9 + BitVec.ofNat 9 (4 * k)) = .right k ∧
    addressed (0x070#9 + BitVec.ofNat 9 (4 * k)) = .opa k ∧
    addressed (0x080#9 + BitVec.ofNat 9 (4 * k)) = .opb k ∧
    addressed (0x090#9 + BitVec.ofNat 9 (4 * k)) = .res k ∧
    addressed (0x0A0#9 + BitVec.ofNat 9 (4 * k)) = .rkout k := by
  revert k; decide

theorem addressed_blk (k : Fin 8) : addressed (0x030#9 + BitVec.ofNat 9 (4 * k)) = .blk k := by
  revert k; decide

theorem addressed_w (i : Fin 44) : addressed (0x100#9 + BitVec.ofNat 9 (4 * i)) = .w i := by
  revert i; decide

theorem windowReg_eq_status_iff (n : Nat) : windowReg n = .status ↔ n = 1 := by
  simp only [windowReg, ite_eq_iff, reduceCtorEq, and_false, and_true, false_or, or_false]
  omega

/-- STATUS in the words of R60: the address whose bits [8:2] are 1. -/
theorem addressed_eq_status_iff (a : WindowAddr) : addressed a = .status ↔ a >>> 2 = 1#9 := by
  rw [addressed, windowReg_eq_status_iff, wordIndex_eq_shift, ← BitVec.toNat_inj]
  rfl

theorem windowReg_eq_reserved_iff (n : Nat) :
    windowReg n = .reserved ↔ (45 ≤ n ∧ n < 64) ∨ 108 ≤ n := by
  simp only [windowReg, ite_eq_iff, reduceCtorEq, and_false, and_true, false_or]
  omega

/-! ### What an access does to the selected row -/

theorem memWrite_of_addressed {s : State} {a : WindowAddr} {r : WindowReg} (hidle : s.busy = false)
    (h : addressed a = r) (v : Word) : memWrite a v s = writeReg r v s := by
  rw [memWrite_idle hidle, h]

/-- A read while BUSY = 0 (20_memory.md R68). -/
theorem memReadValue_of_addressed {s : State} {a : WindowAddr} {r : WindowReg}
    (hidle : s.busy = false) (h : addressed a = r) : memReadValue a s = readReg r s := by
  simp [memReadValue, hidle, h]

/-- STATUS is exact in every state (20_memory.md R71). -/
theorem memReadValue_status {s : State} {a : WindowAddr} (h : addressed a = .status) :
    memReadValue a s = statusWord s := by
  simp [memReadValue, h, readReg]

/-- Every other read while BUSY = 1 takes the next free value (20_memory.md R71; log entry 4). -/
theorem memReadValue_busy {s : State} {a : WindowAddr} (hbusy : s.busy = true)
    (h : addressed a ≠ .status) : memReadValue a s = Config.busyRead s.draws := by
  simp [memReadValue, hbusy, h]

theorem memWrite_congr {a b : WindowAddr} (h : addressed a = addressed b) (v : Word) (s : State) :
    memWrite a v s = memWrite b v s := by
  rw [memWrite, memWrite, h]

theorem memReadValue_congr {a b : WindowAddr} (h : addressed a = addressed b) (s : State) :
    memReadValue a s = memReadValue b s := by
  rw [memReadValue, memReadValue, h]

/-! ### Writes while BUSY = 1, and CMD -/

/-- Settles O15: the discarding of a write looks at BUSY only. -/
theorem writeWhileBusyOnlySetsOvr : Obligations.WriteWhileBusyOnlySetsOvr :=
  fun _ a v hbusy => memWrite_busy hbusy a v

/-- A command write that is not discarded (20_memory.md R66). -/
theorem issueCommand_accepted {s : State} {v : Word} (h : s.err = true → v = clrerrWord) :
    issueCommand v s = { s with pend := v, busy := true } :=
  if_neg fun hdiscard => hdiscard.2 (h hdiscard.1)

/-- A command write that is discarded (20_memory.md R66, 60_exceptions.md R244). -/
theorem issueCommand_discarded {s : State} {v : Word} (herr : s.err = true) (hv : v ≠ clrerrWord) :
    issueCommand v s = s :=
  if_pos ⟨herr, hv⟩

theorem memWrite_cmd {s : State} (hidle : s.busy = false) (v : Word) :
    memWrite 0x000#9 v s = issueCommand v s :=
  memWrite_of_addressed hidle addressed_cmd v

/-- The step in which the ENGINE moves completes the pending command (20_memory.md R66). -/
theorem step_completes_of_engineMovesNext {s : State} (h : engineMovesNext s) :
    ∃ t, step s = .next t ∧ t.busy = false := by
  obtain ⟨hr, hb, hturn⟩ := h
  cases hs : s.schedule with
  | nil =>
    rw [step_of_schedule_nil_busy hs hr hb]
    exact engineTurn_completes hr hb
  | cons a rest =>
    obtain rfl : a = .engine := by simpa [hs] using hturn
    rw [step_of_schedule_cons hs]
    exact engineTurn_completes (s := { s with schedule := rest }) hr hb

/-- Settles O14, from the two cases of issueCommand and the ENGINE's step. -/
theorem cmdWriteIssuesOrIsDiscarded : Obligations.CmdWriteIssuesOrIsDiscarded := by
  refine ⟨fun s => step_completes_of_engineMovesNext,
    fun s v => ⟨?busy, ?discarded, ?clrerr, ?issued⟩⟩
  case busy => exact fun hbusy => memWrite_busy hbusy _ v
  case discarded =>
    intro hidle herr hv
    rw [memWrite_cmd hidle, issueCommand_discarded herr hv]
  case clrerr =>
    intro hidle _ hv
    rw [memWrite_cmd hidle, issueCommand_accepted fun _ => hv]
  case issued =>
    intro hidle hnoerr
    rw [memWrite_cmd hidle, issueCommand_accepted (by simp [hnoerr])]

/-! ### Addresses and reads -/

/-- Settles O16: both accesses depend on the address through its row. -/
theorem lowAddressBitsAreIgnored : Obligations.LowAddressBitsAreIgnored := by
  intro s a b v h
  have hrow : addressed a = addressed b := addressed_congr h
  exact ⟨memWrite_congr hrow v s, memReadValue_congr hrow s⟩

/-- Settles O17: the row is STATUS exactly where bits [8:2] of the address are 1. -/
theorem readsChangeNoRegister : Obligations.ReadsChangeNoRegister := by
  intro s a
  refine ⟨?record, fun hstatus => ?status, fun hbusy hother => ?free⟩
  case record => simp only [memRead, ne_eq, addressed_eq_status_iff]
  case status => exact memReadValue_status ((addressed_eq_status_iff a).mpr hstatus)
  case free => exact memReadValue_busy hbusy (mt (addressed_eq_status_iff a).mp hother)

/-! ### Blocks, byte by byte -/

theorem setBlockWord_bytes {n : Nat} (x : Vector Byte n) (k : Nat) (v : Word) (j : Fin n) :
    (setBlockWord x k v)[j] = if j.val / 4 = k then v.extractLsb' (8 * (j.val % 4)) 8 else x[j] :=
  setBlockWord_getElem x k v j.val j.isLt

/-- Settles O18: each base and word number selects its block, and setBlockWord sets the bytes. -/
theorem blockWriteSetsExactlyFourBytes : Obligations.BlockWriteSetsExactlyFourBytes := by
  intro s v hidle
  refine ⟨fun k => ?rootkey, fun k => ?fkey, fun k => ?blk, fun k => ?opa, fun k => ?opb⟩
  case blk =>
    exact ⟨_, memWrite_of_addressed hidle (addressed_blk k) v, setBlockWord_bytes s.blk k v⟩
  all_goals obtain ⟨hrootkey, hfkey, -, -, hopa, hopb, -, -⟩ := addressed_block128 k
  case rootkey =>
    exact ⟨_, memWrite_of_addressed hidle hrootkey v, setBlockWord_bytes s.rootkey k v⟩
  case fkey => exact ⟨_, memWrite_of_addressed hidle hfkey v, setBlockWord_bytes s.fkey k v⟩
  case opa => exact ⟨_, memWrite_of_addressed hidle hopa v, setBlockWord_bytes s.opa k v⟩
  case opb => exact ⟨_, memWrite_of_addressed hidle hopb v, setBlockWord_bytes s.opb k v⟩

/-- A row that reads word j / 4 of a block shows byte j in its lane (20_memory.md R62, R68). -/
theorem memReadValue_byte {n : Nat} {s : State} {a : WindowAddr} {r : WindowReg} {x : Vector Byte n}
    {j : Fin n} (hidle : s.busy = false) (hrow : addressed a = r)
    (hread : readReg r s = blockWord x (j.val / 4)) :
    (memReadValue a s).extractLsb' (8 * (j.val % 4)) 8 = x[j] := by
  rw [memReadValue_of_addressed hidle hrow, hread]
  exact byteOf_blockWord x j.val j.isLt

/-- Settles O19: word j / 4 of each block's rows. -/
theorem blockReadsAreLittleEndian : Obligations.BlockReadsAreLittleEndian := by
  intro s hidle
  refine ⟨fun j => ?block128, fun j => ?blk⟩
  case block128 =>
    obtain ⟨hrootkey, hfkey, hleft, hright, hopa, hopb, hres, hrkout⟩ :=
      addressed_block128 ⟨j.val / 4, by omega⟩
    exact ⟨memReadValue_byte hidle hrootkey rfl, memReadValue_byte hidle hfkey rfl,
      memReadValue_byte hidle hleft rfl, memReadValue_byte hidle hright rfl,
      memReadValue_byte hidle hopa rfl, memReadValue_byte hidle hopb rfl,
      memReadValue_byte hidle hres rfl, memReadValue_byte hidle hrkout rfl⟩
  case blk => exact memReadValue_byte hidle (addressed_blk ⟨j.val / 4, by omega⟩) rfl

/-! ### The other words -/

/-- Settles O20: one row of the map each. -/
theorem otherWindowWordsReadAsTheMapSays : Obligations.OtherWindowWordsReadAsTheMapSays := by
  intro s hidle
  have hstatus : addressed 0x004#9 = .status := (addressed_eq_status_iff _).mpr rfl
  refine ⟨memReadValue_of_addressed hidle addressed_cmd, memReadValue_status hstatus,
    memReadValue_of_addressed hidle addressed_errcmd, memReadValue_ctrl hidle,
    memReadValue_of_addressed hidle addressed_byteout,
    fun i => memReadValue_of_addressed hidle (addressed_w i), fun a ha => ?reserved⟩
  have hrow : addressed a = .reserved := by
    rw [addressed, windowReg_eq_reserved_iff, wordIndex_eq_div]
    omega
  exact memReadValue_of_addressed hidle hrow

/-- The rows that take a write (20_memory.md R63, R64). -/
def WindowReg.takesWrites (r : WindowReg) : Bool :=
  match r with
  | .cmd | .ctrl | .rootkey _ | .fkey _ | .blk _ | .opa _ | .opb _ => true
  | .status | .errcmd | .left _ | .right _ | .res _ | .rkout _ | .byteout | .w _ | .reserved =>
    false

theorem writeReg_of_not_takesWrites {r : WindowReg} (h : r.takesWrites = false) (v : Word)
    (s : State) : writeReg r v s = s := by
  cases r with
  | cmd | ctrl | rootkey | fkey | blk | opa | opb => cases h
  | _ => rfl

/-- By word index: CMD, CTRL to BLK, and OPA to OPB. -/
theorem takesWrites_windowReg_iff (n : Nat) :
    (windowReg n).takesWrites = true ↔ n = 0 ∨ (3 ≤ n ∧ n < 20) ∨ (28 ≤ n ∧ n < 36) := by
  simp only [windowReg, apply_ite WindowReg.takesWrites]
  simp only [WindowReg.takesWrites, ite_eq_iff, reduceCtorEq, and_false, and_true, false_or,
    or_false]
  omega

/-- Settles O21: the addresses named are those of no row that takes a write. -/
theorem readOnlyAndReservedWordsIgnoreWrites :
    Obligations.ReadOnlyAndReservedWordsIgnoreWrites := by
  intro s a v hidle ha
  have hrow : (addressed a).takesWrites = false := by
    rw [addressed, ← Bool.not_eq_true, takesWrites_windowReg_iff, wordIndex_eq_div]
    omega
  rw [memWrite_idle hidle, writeReg_of_not_takesWrites hrow]

/-! ### Host turns while a command is pending -/

/-- A step that the interleaving gives to the HOST while a command is pending (20_memory.md R70). -/
theorem step_host_busy_frame {s : State} {rest : List Turn} (hr : s.rst = false)
    (hb : s.busy = true) (hs : s.schedule = .host :: rest) :
    ∃ t, step s = .next t ∧ t = { s with
      ovr := t.ovr, host := t.host, reads := t.reads, draws := t.draws, schedule := rest } := by
  obtain ⟨t, ht⟩ := hostTurn_answers (s := { s with schedule := rest }) hr
  have hframe := hostTurn_busy_frame (s := { s with schedule := rest }) hb ht
  exact ⟨t, (step_of_schedule_cons hs).trans ht, hframe⟩

/-- Settles O9, by induction on the number of host turns: each one changes OVR and the host's fields
only, so BUSY = 1 and the operands stand for the next. -/
theorem hostStepsWhileBusyLeaveTheOperands : Obligations.HostStepsWhileBusyLeaveTheOperands := by
  intro n
  induction n with
  | zero =>
    rintro s rest - - rfl
    exact ⟨s, run_zero s, rfl⟩
  | succ n ih =>
    intro s rest hr hb hs
    have hnext : s.schedule = .host :: (List.replicate n .host ++ rest) := hs
    obtain ⟨u, hstep, hu⟩ := step_host_busy_frame hr hb hnext
    obtain ⟨t, hrun, ht⟩ := ih u rest (by rw [hu]; exact hr) (by rw [hu]; exact hb) (by rw [hu])
    rw [hu] at ht
    exact ⟨t, (run_succ n hstep).trans hrun, ht⟩

end Sys2Proof.Machine
end

section
/-!
Decoding against encoding (30_encoding.md R90 to R97). The decoder reads three fields and the encoder
writes them, so a word decodes to a command exactly if it is the word of that command, well formed. The
opcode map is tied to both by the row of a command: the words that a row matches are the words of the
row's command with every operand that fits its field.
-/

namespace Sys2Proof

/-! ### The decoder and the encoder are inverse -/

/-- A word whose fields are those of a well-formed command decodes to it (30_encoding.md R92, R94). -/
theorem decode_of_fields {v : Word} {i : Instr} (hwf : i.wellFormed = true)
    (hopc : opcField v = i.opcode) (hrsv : rsvField v = 0#8)
    (himm : imm16Field v = BitVec.ofNat 16 i.immediate) : decode v = .ok i := by
  have hknown : ¬(opcField v).toNat ∉ knownOpcodes := not_not_intro (hopc ▸ opcode_known i)
  rw [decode, if_neg hknown, if_neg (not_not_intro hrsv), hopc, himm, decodeOperand_self hwf]

/-- Settles O2: the fields of the encoded word are the command's. -/
theorem decodeOfEncodeIsTheCommand : Obligations.DecodeOfEncodeIsTheCommand := fun _ hwf =>
  decode_of_fields hwf (opcField_encode hwf) (rsvField_encode hwf) (imm16Field_encode hwf)

/-- Settles O3: a decoded word has the fields of its command, and a word is its three fields. -/
theorem encodeOfDecodeIsTheWord : Obligations.EncodeOfDecodeIsTheWord := by
  intro v i h
  obtain ⟨hopc, hrsv, himm, hwf⟩ := decode_ok h
  refine ⟨BitVec.eq_of_toNat_eq ?_, hwf⟩
  rw [encode_toNat hwf, word_eq_fields v, hopc, hrsv, himm, BitVec.toNat_zero, Nat.zero_mul,
    Nat.add_zero]

theorem decode_eq_ok_iff {v : Word} {i : Instr} :
    decode v = .ok i ↔ encode i = v ∧ i.wellFormed = true := by
  refine ⟨encodeOfDecodeIsTheWord v i, ?_⟩
  rintro ⟨rfl, hwf⟩
  exact decodeOfEncodeIsTheCommand i hwf

/-- Settles O1: each word is the word of its command. -/
theorem tableWordsDecodeToTheirCommands : Obligations.TableWordsDecodeToTheirCommands := by
  simp only [Obligations.TableWordsDecodeToTheirCommands, decode_eq_ok_iff]
  decide

/-! ### The row of a command -/

/-- The number of low bits of IMM16 that hold the command's operand (30_encoding.md R91). -/
def Instr.operandWidth (i : Instr) : Nat :=
  match i with
  | .setpos _ | .getkey _ | .enc _ | .dec _ => 16
  | .sbox _ => 8
  | .bxor | .badd | .brf | .bsplit | .bjoin | .expand | .nextkey | .initf | .inits | .join
  | .nop | .clrerr => 0

theorem operandWidth_cases (i : Instr) :
    i.operandWidth = 0 ∨ i.operandWidth = 8 ∨ i.operandWidth = 16 := by
  cases i <;> simp [Instr.operandWidth]

theorem wellFormed_iff (i : Instr) :
    i.wellFormed = true ↔ i.immediate < 2 ^ i.operandWidth := by
  cases i <;> simp [Instr.wellFormed, Instr.immediate, Instr.operandWidth]

/-- The command with n in place of its operand, if it takes one. -/
def Instr.withOperand (i : Instr) (n : Nat) : Instr :=
  match i with
  | .setpos _ => .setpos n
  | .getkey _ => .getkey n
  | .sbox _ => .sbox n
  | .enc _ => .enc n
  | .dec _ => .dec n
  | i => i

/-- The row of the opcode map with the command's mnemonic: its mask has a 1 in every bit above the
operand (30_encoding.md R92, R93). -/
def Instr.row (i : Instr) : OpcodeRow :=
  ⟨i.mnemonic, BitVec.ofNat 32 (i.opcode.toNat * 2 ^ 24), BitVec.ofNat 32 (2 ^ 32 - 2 ^ i.operandWidth)⟩

@[simp] theorem row_mnemonic (i : Instr) : i.row.mnemonic = i.mnemonic := rfl

theorem row_matchWord_toNat (i : Instr) : i.row.matchWord.toNat = i.opcode.toNat * 2 ^ 24 := by
  have ho := i.opcode.isLt
  simp only [Instr.row, BitVec.toNat_ofNat]
  omega

@[simp] theorem withOperand_opcode (i : Instr) (n : Nat) : (i.withOperand n).opcode = i.opcode := by
  cases i <;> rfl

@[simp] theorem withOperand_row (i : Instr) (n : Nat) : (i.withOperand n).row = i.row := by
  cases i <;> rfl

@[simp] theorem withOperand_operandWidth (i : Instr) (n : Nat) :
    (i.withOperand n).operandWidth = i.operandWidth := by
  cases i <;> rfl

theorem withOperand_immediate {i : Instr} {n : Nat} (h : n < 2 ^ i.operandWidth) :
    (i.withOperand n).immediate = n := by
  cases i with
  | setpos | getkey | sbox | enc | dec => rfl
  | _ => exact (Nat.lt_one_iff.mp h).symm

/-- One command of each row, in the order of the map (30_encoding.md R93). -/
def commandsOfRows : List Instr :=
  [.bxor, .badd, .brf, .bsplit, .bjoin, .expand, .setpos 0, .getkey 0, .nextkey, .sbox 0, .initf,
    .inits, .enc 0, .dec 0, .join, .nop, .clrerr]

/-- The opcode map is the list of the commands' rows. -/
theorem opcodeRows_eq_map_row : opcodeRows = commandsOfRows.map Instr.row := by
  decide

theorem withOperand_zero_mem (i : Instr) : i.withOperand 0 ∈ commandsOfRows := by
  cases i <;> simp [Instr.withOperand, commandsOfRows]

theorem row_mem (i : Instr) : i.row ∈ opcodeRows := by
  rw [opcodeRows_eq_map_row, ← withOperand_row i 0]
  exact List.mem_map_of_mem (withOperand_zero_mem i)

theorem exists_row_eq {r : OpcodeRow} (h : r ∈ opcodeRows) : ∃ i : Instr, i.row = r := by
  rw [opcodeRows_eq_map_row] at h
  obtain ⟨i, -, hi⟩ := List.mem_map.mp h
  exact ⟨i, hi⟩

/-! ### The words that a row matches -/

/-- A row matches the words made of its OPC and any operand that fits (30_encoding.md R92). -/
theorem matches_row_iff (i : Instr) (v : Word) :
    v &&& i.row.mask = i.row.matchWord ↔
      ∃ n < 2 ^ i.operandWidth, v.toNat = i.opcode.toNat * 2 ^ 24 + n := by
  have hwidth : i.operandWidth ≤ 32 := by
    rcases operandWidth_cases i with h | h | h <;> omega
  have hmask : (v &&& i.row.mask).toNat = v.toNat / 2 ^ i.operandWidth * 2 ^ i.operandWidth :=
    and_mask_toNat v _ hwidth
  rw [← BitVec.toNat_inj, hmask, row_matchWord_toNat]
  constructor
  · intro h
    refine ⟨v.toNat % 2 ^ i.operandWidth, Nat.mod_lt _ (Nat.two_pow_pos _), ?_⟩
    rw [← h, Nat.div_add_mod']
  · rintro ⟨n, hn, hv⟩
    rcases operandWidth_cases i with h | h | h <;> rw [h] at hn ⊢ <;> omega

/-- A word that decodes matches the row of its command (30_encoding.md R92, R93). -/
theorem matches_row_of_decode {v : Word} {i : Instr} (h : decode v = .ok i) :
    v &&& i.row.mask = i.row.matchWord := by
  obtain ⟨rfl, hwf⟩ := decode_eq_ok_iff.mp h
  exact (matches_row_iff i _).mpr ⟨i.immediate, (wellFormed_iff i).mp hwf, encode_toNat hwf⟩

/-- A word that a row matches decodes to a command of that row (30_encoding.md R92). -/
theorem exists_decode_of_matches {v : Word} {r : OpcodeRow} (hr : r ∈ opcodeRows)
    (h : v &&& r.mask = r.matchWord) : ∃ i, decode v = .ok i ∧ i.row = r := by
  obtain ⟨i, rfl⟩ := exists_row_eq hr
  obtain ⟨n, hn, hv⟩ := (matches_row_iff i v).mp h
  have himm := withOperand_immediate hn
  have hwf : (i.withOperand n).wellFormed = true := by
    rw [wellFormed_iff, himm, withOperand_operandWidth]
    exact hn
  have hword : encode (i.withOperand n) = v := by
    apply BitVec.eq_of_toNat_eq
    rw [encode_toNat hwf, himm, withOperand_opcode, hv]
  exact ⟨i.withOperand n, decode_eq_ok_iff.mpr ⟨hword, hwf⟩, withOperand_row i n⟩

/-- Settles O4: a row that matches is the row of the command decoded, and the decoder answers one. -/
theorem decodeAcceptsExactlyTheRowsOfTheMap : Obligations.DecodeAcceptsExactlyTheRowsOfTheMap := by
  refine ⟨fun v m => ⟨?row, ?decoded⟩, fun v r hr r' hr' h h' => ?unique⟩
  case row =>
    rintro ⟨i, hi, rfl⟩
    exact ⟨i.row, row_mem i, row_mnemonic i, matches_row_of_decode hi⟩
  case decoded =>
    rintro ⟨r, hr, rfl, h⟩
    obtain ⟨i, hi, rfl⟩ := exists_decode_of_matches hr h
    exact ⟨i, hi, (row_mnemonic i).symm⟩
  case unique =>
    obtain ⟨i, hi, rfl⟩ := exists_decode_of_matches hr h
    obtain ⟨i', hi', rfl⟩ := exists_decode_of_matches hr' h'
    obtain rfl : i = i' := Except.ok.inj (hi.symm.trans hi')
    rfl

end Sys2Proof
end

section
/-!
Steps by what the pending word decodes to (30_encoding.md R92, R94, R95) and by what the host's program
holds next (R98).
-/

namespace Sys2Proof.Machine

open Sys2Proof

/-! ### Words that decode to no command -/

theorem faultsIllegal_of_not_decode {v : Word} (h : ∀ i, decode v ≠ .ok i) : faultsIllegal v := by
  cases hd : decode v with
  | error e => exact faultsIllegal_of_decode_error hd
  | ok i => exact absurd hd (h i)

theorem row_matchWord_opc (i : Instr) : i.row.matchWord.extractLsb' 24 8 = i.opcode := by
  apply BitVec.eq_of_toNat_eq
  have ho := i.opcode.isLt
  rw [BitVec.extractLsb'_toNat, Nat.shiftRight_eq_div_pow, row_matchWord_toNat]
  omega

/-- The rows without an operand, by OPC (30_encoding.md R91, R93). -/
theorem immediate_eq_zero_of_opcode {i : Instr}
    (h : i.opcode ∉ [0x11#8, 0x12#8, 0x14#8, 0x22#8, 0x23#8]) : i.immediate = 0 := by
  cases i with
  | setpos | getkey | sbox | enc | dec => exact absurd (by simp [Instr.opcode]) h
  | _ => rfl

theorem operandWidth_of_sbox_opcode {i : Instr} (h : i.opcode = 0x14#8) : i.operandWidth = 8 := by
  cases i with
  | sbox => rfl
  | _ => cases h

/-- Settles O5: each clause contradicts a field that a decoded word has. -/
theorem strayBitsAndUnassignedOpcodesAreIllegal :
    Obligations.StrayBitsAndUnassignedOpcodesAreIllegal := by
  refine ⟨fun v h => ?opc, fun v h => ?rsv, fun v hopc h => ?imm, fun v hopc h => ?sbox⟩
  all_goals
    refine faultsIllegal_of_not_decode fun i hi => ?_
    obtain ⟨hopci, hrsv, himm, hwf⟩ := decode_ok hi
  case opc => exact h i.row (row_mem i) (hopci.trans (row_matchWord_opc i).symm)
  case rsv => exact h hrsv
  case imm =>
    rw [immediate_eq_zero_of_opcode (hopci ▸ hopc)] at himm
    exact h (BitVec.eq_of_toNat_eq himm)
  case sbox =>
    have hlt : i.immediate < 2 ^ 8 :=
      operandWidth_of_sbox_opcode (hopci.symm.trans hopc) ▸ (wellFormed_iff i).mp hwf
    rw [imm16Field_toNat] at himm
    refine h (BitVec.eq_of_toNat_eq ?_)
    rw [BitVec.extractLsb'_toNat, Nat.shiftRight_eq_div_pow, BitVec.toNat_ofNat]
    omega

/-! ### The ENGINE's step -/

theorem schedule_tail_of_nil {s : State} (h : s.schedule = []) :
    { s with schedule := s.schedule.tail } = s := by
  rw [h, List.tail_nil, ← h]

/-- The ENGINE's step executes the pending word (30_encoding.md R92). -/
theorem step_of_engineMovesNext {s : State} (h : engineMovesNext s) :
    step s = runPending { s with schedule := s.schedule.tail } := by
  obtain ⟨hr, hb, hturn⟩ := h
  have hexec : engineTurn { s with schedule := s.schedule.tail } =
      runPending { s with schedule := s.schedule.tail } := if_pos ⟨hr, hb⟩
  rw [← hexec]
  cases hs : s.schedule with
  | nil => rw [step_of_schedule_nil_busy hs hr hb, ← hs, schedule_tail_of_nil hs]
  | cons a rest =>
    obtain rfl : a = .engine := by simpa [hs] using hturn
    exact step_of_schedule_cons hs

theorem runPending_of_decode {s : State} {i : Instr} (h : decode s.pend = .ok i) :
    runPending s = exec i s := by
  rw [runPending, h]

/-- Settles O6: the interleaving is no part of the pending word. -/
theorem stepRunsTheDecodedCommand : Obligations.StepRunsTheDecodedCommand := by
  intro s i hmoves hi
  rw [step_of_engineMovesNext hmoves]
  exact runPending_of_decode hi

/-- Settles O7: a word that decodes would match the row of its command. -/
theorem wordOutsideTheMapFaultsEillegal : Obligations.WordOutsideTheMapFaultsEillegal := by
  intro s hmoves hnone
  have hillegal : faultsIllegal s.pend := faultsIllegal_of_not_decode fun i hi =>
    hnone i.row (row_mem i) (matches_row_of_decode hi)
  rw [step_of_engineMovesNext hmoves]
  exact hillegal _ rfl

/-! ### The HOST's step -/

theorem step_of_hostMovesNext {s : State} (h : hostMovesNext s) :
    step s = hostTurn { s with schedule := s.schedule.tail } := by
  obtain ⟨hr, hturn⟩ := h
  cases hs : s.schedule with
  | nil =>
    have hidle : s.busy = false := by simpa [hs] using hturn
    rw [← hs, schedule_tail_of_nil hs]
    simp [step, hs, defaultTurn, hr, hidle]
  | cons a rest =>
    obtain rfl : a = .host := by simpa [hs] using hturn
    exact step_of_schedule_cons hs

theorem hostTurn_nil {s : State} (h : s.host = []) : hostTurn s = .next s := by
  rw [hostTurn, h]

theorem hostTurn_rd {s : State} {a : WindowAddr} {ops : List HostOp} (hr : s.rst = false)
    (h : s.host = .rd a :: ops) : hostTurn s = .next (memRead a { s with host := ops }) := by
  simp [hostTurn, h, hr]

theorem hostTurn_wr {s : State} {a : WindowAddr} {v : Word} {ops : List HostOp}
    (hr : s.rst = false) (h : s.host = .wr a v :: ops) :
    hostTurn s = .next (memWrite a v { s with host := ops }) := by
  simp [hostTurn, h, hr]

/-- A read of STATUS draws no free value (20_memory.md R71). -/
theorem memRead_status (s : State) :
    memRead statusAddr s = { s with reads := statusWord s :: s.reads } := by
  have hrow : addressed statusAddr = .status := (addressed_eq_status_iff _).mpr rfl
  rw [memRead, memReadValue_status hrow, if_neg fun hdraw => hdraw.2 hrow]

/-- A WAIT is left behind exactly if BUSY = 0 (30_encoding.md R98; log entry 10). -/
theorem hostTurn_wait {s : State} {ops : List HostOp} (hr : s.rst = false)
    (h : s.host = .wait :: ops) :
    hostTurn s = .next { s with
      reads := statusWord s :: s.reads, host := if s.busy then s.host else ops } := by
  have hturn : hostTurn s =
      .next (memRead statusAddr { s with host := if s.busy then s.host else ops }) := by
    simp [hostTurn, h, hr]
  rw [hturn, memRead_status]
  rfl

/-- Settles O24, by the operation at the head of the host's program. -/
theorem hostStepPerformsTheNextAccess : Obligations.HostStepPerformsTheNextAccess := by
  intro s hmoves
  rw [step_of_hostMovesNext hmoves]
  obtain ⟨hr, -⟩ := hmoves
  refine ⟨fun a v ops h => ?wr, fun a ops h => ?rd, fun ops h => ?wait, fun h => ?idle⟩
  case wr => exact hostTurn_wr hr h
  case rd => exact hostTurn_rd hr h
  case wait => exact hostTurn_wait hr h
  case idle => exact hostTurn_nil h

end Sys2Proof.Machine
end

section
/-!
The block arithmetic commands (40_block_arith.md R123 to R127): the word of each, the next state it
answers, and its result byte by byte.
-/

namespace Sys2Proof.Machine

open Sys2Proof

/-! ### The next state of each command -/

theorem exec_bxor (s : State) :
    exec .bxor s = .next { s with res := xor128 s.opa s.opb, busy := false } := rfl

theorem exec_badd (s : State) :
    exec .badd s = .next { s with res := add8 s.opa s.opb, busy := false } := rfl

theorem exec_brf (s : State) :
    exec .brf s = .next { s with res := roundFunction s.rfsel s.opa s.opb, busy := false } := rfl

theorem exec_bsplit (s : State) : exec .bsplit s =
    .next { s with opa := splitLeft s.blk, opb := splitRight s.blk, busy := false } := rfl

theorem exec_bjoin (s : State) :
    exec .bjoin s = .next { s with blk := joinBlocks s.opa s.opb, busy := false } := rfl

/-- With RFSEL = EXT, BRF gives the external round function (40_block_arith.md R121, R125). -/
theorem exec_brf_of_ext {s : State} (h : s.rfsel = .ext) :
    exec .brf s = .next { s with res := Config.rfExt s.opa s.opb, busy := false } := by
  rw [exec_brf, h, roundFunction_ext]

/-- With RFSEL = ADD8, BRF is BADD (40_block_arith.md R121, R125). -/
theorem exec_brf_of_add8 {s : State} (h : s.rfsel = .add8) : exec .brf s = exec .badd s := by
  rw [exec_brf, exec_badd, h, roundFunction_add8]

/-! ### Their results -/

/-- Each byte wraps on its own, without carry (40_block_arith.md R120, R124). -/
theorem add8_getElem_toNat (a b : Block128) (j : Fin 16) :
    (add8 a b)[j].toNat = (a[j].toNat + b[j].toNat) % 256 :=
  (congrArg BitVec.toNat (add8_getElem a b j j.isLt)).trans (BitVec.toNat_add a[j] b[j])

/-- Settles O31: RES is xor128 of the operands, known byte by byte. -/
theorem bxorXorsEveryByte : Obligations.BxorXorsEveryByte :=
  ⟨rfl, fun s => ⟨_, exec_bxor s, fun j => xor128_getElem s.opa s.opb j j.isLt⟩⟩

/-- Settles O32: RES is add8 of the operands, whose bytes wrap each on its own. -/
theorem baddAddsEveryByteModulo256 : Obligations.BaddAddsEveryByteModulo256 :=
  ⟨rfl, fun s => ⟨_, exec_badd s, add8_getElem_toNat s.opa s.opb⟩⟩

/-- Settles O33, by the setting of RFSEL; under ADD8 the command is BADD. -/
theorem brfAppliesTheSelectedRoundFunction : Obligations.BrfAppliesTheSelectedRoundFunction := by
  refine ⟨rfl, fun s hext => exec_brf_of_ext hext, fun s hadd => ?_⟩
  exact ⟨_, (exec_brf_of_add8 hadd).trans (exec_badd s), exec_badd s,
    add8_getElem_toNat s.opa s.opb⟩

/-- Settles O34: the operands are the two halves of BLK, known byte by byte. -/
theorem bsplitTakesTheHalvesOfBlk : Obligations.BsplitTakesTheHalvesOfBlk :=
  ⟨rfl, fun s => ⟨_, _, exec_bsplit s, fun j =>
    ⟨splitLeft_getElem s.blk j j.isLt, splitRight_getElem s.blk j j.isLt⟩⟩⟩

/-- Settles O35: BLK is the join of the operands, known half by half. -/
theorem bjoinJoinsTheOperands : Obligations.BjoinJoinsTheOperands :=
  ⟨rfl, fun s => ⟨_, exec_bjoin s, fun j =>
    ⟨joinBlocks_left s.opa s.opb j j.isLt, joinBlocks_right s.opa s.opb j j.isLt⟩⟩⟩

end Sys2Proof.Machine
end

section
/-!
The key scheduler (41_key_schedule.md): the S-box and the word functions of the expansion, the
expansion's recurrence, the bytes of a round key, what each command of the scheduler answers, and what
changes W.
-/

namespace Sys2Proof.Machine

open Sys2Proof

/-! ### The S-box -/

/-- The inverse of the S-box, packed into one number: at each n < 256, its byte SBOX[n] is n. -/
def sboxInverseTable : Nat :=
  ((List.range 256).map fun n => n <<< (8 * (sbox (BitVec.ofNat 8 n)).toNat)).sum

def sboxInverse (c : Byte) : Byte := BitVec.ofNat 8 (sboxInverseTable >>> (8 * c.toNat))

theorem sboxInverse_sbox : ∀ b : Byte, sboxInverse (sbox b) = b := by decide +kernel

theorem sbox_injective : Function.Injective sbox :=
  Function.LeftInverse.injective sboxInverse_sbox

theorem sbox_surjective : Function.Surjective sbox :=
  Finite.injective_iff_surjective.mp sbox_injective

theorem sbox_ne_self : ∀ b : Byte, sbox b ≠ b := by decide +kernel

/-- Settles O37: the table and the fixed points by its 256 entries, the bijection by the inverse. -/
theorem sboxIsABijectionWithTheKnownAnswer : Obligations.SboxIsABijectionWithTheKnownAnswer := by
  refine ⟨?table, by decide, by decide, by decide, sbox_ne_self, sbox_surjective,
    fun a b h => sbox_injective h⟩
  case table => decide +kernel

/-! ### The bytes of a big-endian word, RotWord and SubWord -/

/-- Big-endian assembly puts byte r of a run of four at byte 3 - r of the word (00_scope.md R11). -/
theorem byteOf_be32_of_lt (f : Nat → Byte) {r : Nat} (h : r < 4) :
    byteOf (3 - r) (be32 (f 0) (f 1) (f 2) (f 3)) = f r := by
  obtain ⟨h0, h1, h2, h3⟩ := byteOf_be32 (f 0) (f 1) (f 2) (f 3)
  match r, h with
  | 0, _ => exact h0
  | 1, _ => exact h1
  | 2, _ => exact h2
  | 3, _ => exact h3

theorem byteOf_subWord (v : Word) (k : Fin 4) : byteOf k (subWord v) = sbox (byteOf k v) := by
  have hbyte := byteOf_be32_of_lt (fun r => sbox (byteOf (3 - r) v)) (r := 3 - k) (by omega)
  rwa [Nat.sub_sub_self (by omega)] at hbyte

theorem rotWord_toNat (v : Word) :
    (rotWord v).toNat = v.toNat % 2 ^ 24 * 2 ^ 8 + v.toNat / 2 ^ 24 := by
  have hhigh : v.toNat * 2 ^ 8 % 2 ^ 32 = (v.toNat % 2 ^ 24) <<< 8 := by
    rw [Nat.shiftLeft_eq]; omega
  have hlow : v.toNat / 2 ^ 24 < 2 ^ 8 := by have := v.isLt; omega
  rw [rotWord, rotl32, BitVec.toNat_or, BitVec.toNat_shiftLeft, BitVec.toNat_ushiftRight,
    Nat.shiftLeft_eq, Nat.shiftRight_eq_div_pow, hhigh, ← Nat.shiftLeft_add_eq_or_of_lt hlow,
    Nat.shiftLeft_eq]

/-- Settles O39: the two parts of the rotation do not overlap, and SubWord assembles the bytes it
looked up. -/
theorem rotWordAndSubWordActOnBytes : Obligations.RotWordAndSubWordActOnBytes :=
  ⟨rotWord_toNat, byteOf_subWord⟩

/-! ### The recurrence of the expansion -/

theorem rootWord_eq_be32 (k : Block128) (i : Fin 4) :
    rootWord k i = be32 k[4 * i.val] k[4 * i.val + 1] k[4 * i.val + 2] k[4 * i.val + 3] := by
  rw [rootWord, blockByte_eq k _ (by omega), blockByte_eq k _ (by omega),
    blockByte_eq k _ (by omega), blockByte_eq k _ (by omega)]

/-- A word of the table, as it stands in any stage of the expansion that has reached it. -/
theorem keyExpansion_eq_getD (k : Block128) {m i : Nat} (him : i < m + 4) (hm : m ≤ 40) :
    (keyExpansion k)[i] = (expansionWords k m).getD i 0#32 := by
  obtain ⟨d, hd⟩ := Nat.exists_eq_add_of_le hm
  rw [keyExpansion_getElem, hd, expansionWords_stable k m d i him]

/-- The first four words are the root key's (41_key_schedule.md R153). -/
theorem keyExpansion_root (k : Block128) (i : Fin 4) : (keyExpansion k)[i.val] = rootWord k i := by
  rw [keyExpansion_eq_getD k (m := 0) (by omega) (by omega)]
  match i with
  | 0 | 1 | 2 | 3 => rfl

/-- A stage of the expansion adds the word that nextWord names (41_key_schedule.md R153). -/
theorem expansionWords_succ_getD (k : Block128) (m : Nat) :
    (expansionWords k (m + 1)).getD (m + 4) 0#32 = nextWord (expansionWords k m) := by
  rw [expansionWords, List.getD_eq_getElem?_getD, ← expansionWords_length k m,
    List.getElem?_concat_length, Option.getD_some]

/-- Every further word follows from the word before it and the word four places before
(41_key_schedule.md R153). -/
theorem keyExpansion_next (k : Block128) {m : Nat} (hm : m < 40) :
    (keyExpansion k)[m + 4] =
      (keyExpansion k)[m] ^^^ expansionTemp (m + 4) (keyExpansion k)[m + 3] := by
  rw [keyExpansion_eq_getD k (m := m + 1) (by omega) (by omega), expansionWords_succ_getD,
    keyExpansion_eq_getD k (i := m) (m := m) (by omega) (by omega),
    keyExpansion_eq_getD k (i := m + 3) (m := m) (by omega) (by omega), nextWord,
    expansionWords_length]
  rfl

/-- Settles O38: the round constants by their ten values, the words by the stages of the
expansion. -/
theorem keyExpansionFollowsTheRecurrence : Obligations.KeyExpansionFollowsTheRecurrence := by
  refine ⟨by decide, by decide, fun k => ⟨fun i => ?root, fun i hi hlow => ?next⟩⟩
  case root => rw [keyExpansion_root, rootWord_eq_be32]
  case next =>
    obtain ⟨m, rfl⟩ := Nat.exists_eq_add_of_le' hlow
    exact keyExpansion_next k (by omega)

/-! ### The bytes of a round key -/

/-- A round key is four words of the table, each big-endian (41_key_schedule.md R155). -/
theorem roundKey_byte (w : KeyTable) (r : KeyNumber) (k j : Fin 4) :
    (roundKey w r)[4 * k.val + j.val] =
      (w.toList.getD (4 * r.val + k.val) 0#32).extractLsb' (8 * (3 - j.val)) 8 := by
  have hword : (4 * k.val + j.val) / 4 = k := by omega
  have hlane : (4 * k.val + j.val) % 4 = j := by omega
  have hw : 4 * r.val + k.val < 44 := by omega
  rw [roundKey_getElem]
  simp [byteOf, hword, hlane, hw]

/-- The first round key is the root key: taking a word apart undoes its assembly (41_key_schedule.md
R153, R155). -/
theorem roundKey_keyExpansion_zero (k : Block128) : roundKey (keyExpansion k) 0 = k := by
  ext j hj : 1
  have hword := keyExpansion_root k ⟨j / 4, by omega⟩
  have hbyte := byteOf_be32_of_lt (fun r => blockByte k (4 * (j / 4) + r))
    (Nat.mod_lt j (by decide : 0 < 4))
  rw [roundKey_getElem]
  calc byteOf (3 - j % 4) ((keyExpansion k)[4 * (0 : KeyNumber).val + j / 4]'(by omega))
      = byteOf (3 - j % 4) (rootWord k (j / 4)) := by simp [hword]
    _ = blockByte k (4 * (j / 4) + j % 4) := hbyte
    _ = k[j] := by rw [Nat.div_add_mod, blockByte_eq]

/-! ### The words of the commands -/

/-- A command's word is its row's match word plus its operand (30_encoding.md R93, R97). -/
theorem encode_eq_matchWord_add {i : Instr} {v : Word} (hrow : i.row.matchWord = v) :
    encode i = v + BitVec.ofNat 32 i.immediate :=
  hrow ▸ BitVec.ofNat_add _ _

/-! ### EXPAND -/

theorem exec_expand (s : State) : exec .expand s = .next { s with
    w := keyExpansion s.rootkey, keyvalid := true, cursor := 0, busy := false } := rfl

/-- Settles O40: the effect in every state, and the rule's words of two expansions. -/
theorem expandBuildsTheKeyTable : Obligations.ExpandBuildsTheKeyTable :=
  ⟨rfl, exec_expand, by decide +kernel, by decide +kernel⟩

/-! ### SETPOS and GETKEY -/

/-- What SETPOS and GETKEY share: the checks of KEYVALID and of the index, then an effect of the
index named (41_key_schedule.md R156, R161, R162). -/
def execIndexed (i : Nat) (s : State) (effect : KeyNumber → State) :
    Host.Outcome State Fault Refusal :=
  if s.keyvalid = false then .next (raiseFault .enokey s)
  else
    match keyIndex s.oorpol i with
    | none => .next (raiseFault .eindex s)
    | some r => .next (effect r)

theorem exec_setpos (i : Nat) (s : State) : exec (.setpos i) s =
    execIndexed i s fun r => { s with cursor := r, busy := false } := rfl

theorem exec_getkey (i : Nat) (s : State) : exec (.getkey i) s =
    execIndexed i s fun r => { s with rkout := roundKey s.w r, busy := false } := rfl

section Indexed

variable {i : Nat} {s : State} (effect : KeyNumber → State)

theorem execIndexed_no_key (hkey : s.keyvalid = false) :
    execIndexed i s effect = .next (raiseFault .enokey s) :=
  if_pos hkey

theorem execIndexed_refused (hkey : s.keyvalid = true) (hpol : s.oorpol = .fault) (hi : 10 < i) :
    execIndexed i s effect = .next (raiseFault .eindex s) := by
  rw [execIndexed, hkey, hpol, keyIndex_fault, if_neg (Nat.not_le.mpr hi)]
  rfl

theorem execIndexed_admitted (hkey : s.keyvalid = true) (hi : s.oorpol = .wrap ∨ i ≤ 10) :
    execIndexed i s effect = .next (effect (Fin.ofNat 11 i)) := by
  have hindex : keyIndex s.oorpol i = some (Fin.ofNat 11 i) :=
    keyIndex_of_le fun hpol => hi.resolve_left (by simp [hpol])
  rw [execIndexed, hkey, hindex]
  rfl

end Indexed

/-- Settles O41: the shared checks, then the cursor. -/
theorem setposMovesTheCursorOrFaults : Obligations.SetposMovesTheCursorOrFaults := by
  intro s i
  rw [exec_setpos]
  exact ⟨fun _ => encode_eq_matchWord_add (by simp [Instr.row, Instr.opcode]),
    execIndexed_no_key _, execIndexed_refused _, fun hkey hi =>
      ⟨Fin.ofNat 11 i, rfl, execIndexed_admitted _ hkey hi⟩⟩

/-- Settles O42: the shared checks, then the round key, known byte by byte. -/
theorem getkeyReturnsTheRoundKeyOrFaults : Obligations.GetkeyReturnsTheRoundKeyOrFaults := by
  intro s i
  rw [exec_getkey]
  exact ⟨fun _ => encode_eq_matchWord_add (by simp [Instr.row, Instr.opcode]),
    execIndexed_no_key _, execIndexed_refused _, fun hkey hi =>
      ⟨_, execIndexed_admitted _ hkey hi, roundKey_byte s.w (Fin.ofNat 11 i)⟩⟩

/-! ### EXPAND, then GETKEY -/

theorem execAll_cons {c : Instr} {rest : List Instr} {s t : State} (h : exec c s = .next t) :
    execAll (c :: rest) s = execAll rest t := by
  rw [execAll, h]

/-- Settles O45: EXPAND leaves a valid key, both policies accept index 0, and round key 0 is the root
key. -/
theorem firstRoundKeyIsTheRootKey : Obligations.FirstRoundKeyIsTheRootKey := by
  intro s
  rw [execAll_cons (exec_expand s),
    execAll_cons ((exec_getkey 0 _).trans (execIndexed_admitted _ rfl (.inr (Nat.zero_le 10))))]
  exact ⟨_, rfl, roundKey_keyExpansion_zero s.rootkey⟩

/-! ### NEXTKEY and SBOX -/

theorem exec_nextkey_no_key {s : State} (hkey : s.keyvalid = false) :
    exec .nextkey s = .next (raiseFault .enokey s) :=
  if_pos hkey

theorem exec_nextkey_of_key {s : State} (hkey : s.keyvalid = true) :
    exec .nextkey s = .next { s with
      rkout := roundKey s.w s.cursor, cursor := nextCursor s.cursor, busy := false } :=
  if_neg (by simp [hkey])

/-- Settles O43: the key is the old cursor's. -/
theorem nextkeyReturnsTheKeyAndAdvances : Obligations.NextkeyReturnsTheKeyAndAdvances :=
  ⟨rfl, fun s => ⟨exec_nextkey_no_key, fun hkey =>
    ⟨_, _, exec_nextkey_of_key hkey, nextCursor_val s.cursor, roundKey_byte s.w s.cursor⟩⟩⟩

theorem exec_sbox (b : Nat) (s : State) :
    exec (.sbox b) s = .next { s with byteout := sbox (BitVec.ofNat 8 b), busy := false } := rfl

/-- Settles O44: a byte's number names that byte, in the word and in the table. -/
theorem sboxLooksUpOneByte : Obligations.SboxLooksUpOneByte := by
  refine fun s b => ⟨?word, ?effect⟩
  case word =>
    rw [BitVec.zeroExtend, ← BitVec.ofNat_toNat]
    exact encode_eq_matchWord_add (by simp [Instr.row, Instr.opcode])
  case effect => rw [exec_sbox, BitVec.ofNat_toNat, BitVec.setWidth_eq]

/-! ### What changes W -/

/-- No command but EXPAND writes W (41_key_schedule.md R159). -/
theorem exec_w {i : Instr} {s t : State} (h : exec i s = .next t) (hi : i ≠ .expand) :
    t.w = s.w := by
  cases i with
  | expand => exact absurd rfl hi
  | setpos n => rcases execSetpos_next h with ⟨-, rfl⟩ | ⟨-, -, -, rfl⟩ | ⟨-, -, rfl⟩ <;> simp
  | getkey n => rcases execGetkey_next h with ⟨-, rfl⟩ | ⟨-, -, -, rfl⟩ | ⟨-, -, rfl⟩ <;> simp
  | nextkey => rcases execNextkey_next h with ⟨-, rfl⟩ | ⟨-, rfl⟩ <;> simp
  | inits => rcases execInits_next h with ⟨-, rfl⟩ | ⟨-, rfl⟩ <;> simp
  | enc n =>
    rcases execEnc_next h with ⟨-, rfl⟩ | ⟨-, -, rfl⟩ | ⟨-, -, -, -, rfl⟩ | ⟨-, -, -, rfl⟩ <;> simp
  | dec n =>
    rcases execDec_next h with
      ⟨-, -, rfl⟩ | ⟨-, -, rfl⟩ | ⟨-, -, rfl⟩ | ⟨-, -, -, rfl⟩ | ⟨-, -, -, rfl⟩ <;> simp
  | _ => cases h; simp

/-- Settles O47: a step touches W through a decoded command or reset only, and the command can only
be EXPAND. -/
theorem onlyExpandAndResetChangeTheTable : Obligations.OnlyExpandAndResetChangeTheTable := by
  intro s t h hne
  rcases step_scheduler_engine h with ⟨hmoves, i, hdecode, hexec⟩ | ⟨hreset, rfl⟩ | ⟨hkeep, -⟩
  · have hkeep := exec_w hexec
    obtain rfl : i = .expand := by_contra fun hi => hne (hkeep hi)
    cases hexec
    exact .inl ⟨hdecode, hmoves, rfl⟩
  · exact .inr ⟨hreset, assertReset_w _⟩
  · exact absurd hkeep hne

end Sys2Proof.Machine
end

section
/-!
The commands of the Feistel engine (42_feistel.md R191 to R199): the word of each, the next state it
answers, its faults in their order, and the passes of ENC and DEC as folds over the round numbers with
the round keys written out.
-/

namespace Sys2Proof.Machine

open Sys2Proof

/-! ### INITF, INITS and JOIN -/

theorem exec_initf (s : State) : exec .initf s = .next { s with
    left := splitLeft s.blk, right := splitRight s.blk
    engine := .ready, variant := .fixed, lastop := .none, busy := false } := rfl

theorem exec_inits_no_key {s : State} (hkey : s.keyvalid = false) :
    exec .inits s = .next (raiseFault .enokey s) :=
  if_pos hkey

theorem exec_inits_of_key {s : State} (hkey : s.keyvalid = true) : exec .inits s = .next { s with
    left := splitLeft s.blk, right := splitRight s.blk
    engine := .ready, variant := .sched, lastop := .none, busy := false } :=
  if_neg (by simp [hkey])

theorem exec_join (s : State) :
    exec .join s = .next { s with blk := joinBlocks s.left s.right, busy := false } := rfl

/-- The halves of a block, byte by byte (40_block_arith.md R122). -/
theorem split_bytes (y : Block256) (j : Fin 16) :
    (splitLeft y)[j] = y[j.val] ∧ (splitRight y)[j] = y[16 + j.val] :=
  ⟨splitLeft_getElem y j j.isLt, splitRight_getElem y j j.isLt⟩

/-- Settles O49: LEFT and RIGHT are the halves of BLK, known byte by byte. -/
theorem initfConstructsTheFixedEngine : Obligations.InitfConstructsTheFixedEngine :=
  ⟨rfl, fun s => ⟨_, _, exec_initf s, split_bytes s.blk⟩⟩

/-- Settles O50, by KEYVALID. -/
theorem initsConstructsTheScheduledEngine : Obligations.InitsConstructsTheScheduledEngine :=
  ⟨rfl, fun _ => exec_inits_no_key, fun s hkey => ⟨_, _, exec_inits_of_key hkey, split_bytes s.blk⟩⟩

/-- Settles O56: BLK is the join of LEFT and RIGHT, known half by half. -/
theorem joinWritesTheHalvesToBlk : Obligations.JoinWritesTheHalvesToBlk :=
  ⟨rfl, fun s => ⟨_, exec_join s, fun j =>
    ⟨joinBlocks_left s.left s.right j j.isLt, joinBlocks_right s.left s.right j j.isLt⟩⟩⟩

/-! ### The round count under the index policy -/

theorem not_withinPolicy_iff {s : State} {n : Nat} :
    ¬withinPolicy s n ↔ s.oorpol = .fault ∧ 11 < n := by
  simp [withinPolicy]

/-- A pass within the policy has the key of each of its rounds (42_feistel.md R198). -/
theorem keyIndex_of_withinPolicy {s : State} {n r : Nat} (hpol : withinPolicy s n) (hr : r < n) :
    keyIndex s.oorpol r = some (Fin.ofNat 11 r) :=
  keyIndex_of_le fun hfault => by
    have hn : n ≤ 11 := hpol hfault
    omega

/-! ### ENC and its checks -/

section Enc

variable {n : Nat} {s : State}

theorem exec_enc_of_not_ready (h : s.engine ≠ .ready) :
    exec (.enc n) s = .next (raiseFault .eseq s) :=
  if_pos h

theorem exec_enc_zero (hready : s.engine = .ready) :
    exec (.enc 0) s = .next (raiseFault .erounds s) := by
  simp [exec, execEnc, hready]

theorem exec_enc_outside_policy (hready : s.engine = .ready) (hsched : s.variant = .sched)
    (hpol : s.oorpol = .fault) (hn : 11 < n) :
    exec (.enc n) s = .next (raiseFault .eindex s) := by
  have hne : n ≠ 0 := by omega
  simp [exec, execEnc, hready, hsched, hpol, hn, hne]

theorem exec_enc_of_ready (hready : s.engine = .ready) (hn : n ≠ 0)
    (hpol : s.variant = .sched → withinPolicy s n) :
    exec (.enc n) s = .next (complete (encPass n s)) := by
  have hindex : ¬(s.variant = .sched ∧ s.oorpol = .fault ∧ n > 11) := fun ⟨hsched, hover⟩ =>
    not_withinPolicy_iff.mpr hover (hpol hsched)
  simp [exec, execEnc, hready, hn, hindex]

end Enc

/-- Settles O54, check by check. -/
theorem encFaultsInTheStatedOrder : Obligations.EncFaultsInTheStatedOrder := fun _ _ =>
  ⟨fun _ => encode_eq_matchWord_add (by simp [Instr.row, Instr.opcode]),
    exec_enc_of_not_ready, exec_enc_zero, exec_enc_outside_policy⟩

/-! ### DEC and its checks -/

section Dec

variable {n : Nat} {s : State}

theorem exec_dec_idle (hidle : s.engine = .idle) :
    exec (.dec n) s = .next (raiseFault .eseq s) :=
  if_pos hidle

theorem exec_dec_fixed (hnotIdle : s.engine ≠ .idle) (hfixed : s.variant = .fixed) :
    exec (.dec n) s = .next (raiseFault .evariant s) := by
  simp [exec, execDec, hnotIdle, hfixed]

/-- On the scheduled variant DEC is out of sequence in FINAL unless the last pass was ENC
(42_feistel.md R190). -/
theorem exec_dec_out_of_sequence (hfinal : s.engine = .final) (hlast : s.lastop ≠ .enc)
    (hsched : s.variant = .sched) : exec (.dec n) s = .next (raiseFault .eseq s) := by
  simp [exec, execDec, decAllowed, hfinal, hlast, hsched]

/-- Where DEC is allowed the checks of the round count remain, and past them CURSOR's index is in
range. -/
theorem exec_dec_of_allowed (hsched : s.variant = .sched)
    (hstate : s.engine = .ready ∨ (s.engine = .final ∧ s.lastop = .enc)) :
    exec (.dec n) s =
      if n = 0 then .next (raiseFault .erounds s)
      else if s.oorpol = .fault ∧ 11 < n then .next (raiseFault .eindex s)
      else .next (complete (decPass n (Fin.ofNat 11 (n - 1)) s)) := by
  have hallowed : decAllowed s = true := (decAllowed_iff s).mpr ⟨hsched, hstate⟩
  have hnotIdle : s.engine ≠ .idle := by
    rcases hstate with hready | ⟨hfinal, -⟩
    · simp [hready]
    · simp [hfinal]
  by_cases hn : n = 0
  · simp [exec, execDec, hnotIdle, hsched, hallowed, hn]
  by_cases hpol : withinPolicy s n
  · have hlast := keyIndex_of_withinPolicy hpol (Nat.sub_one_lt hn)
    simp [exec, execDec, hnotIdle, hsched, hallowed, hlast]
  · simp [exec, execDec, hnotIdle, hsched, hallowed, not_withinPolicy_iff.mp hpol]

theorem exec_dec_zero (hsched : s.variant = .sched)
    (hstate : s.engine = .ready ∨ (s.engine = .final ∧ s.lastop = .enc)) :
    exec (.dec 0) s = .next (raiseFault .erounds s) := by
  rw [exec_dec_of_allowed hsched hstate, if_pos rfl]

theorem exec_dec_outside_policy (hsched : s.variant = .sched)
    (hstate : s.engine = .ready ∨ (s.engine = .final ∧ s.lastop = .enc))
    (hpol : s.oorpol = .fault) (hn : 11 < n) :
    exec (.dec n) s = .next (raiseFault .eindex s) := by
  rw [exec_dec_of_allowed hsched hstate, if_neg (by omega), if_pos ⟨hpol, hn⟩]

theorem exec_dec_within_policy (hsched : s.variant = .sched)
    (hstate : s.engine = .ready ∨ (s.engine = .final ∧ s.lastop = .enc)) (hn : n ≠ 0)
    (hpol : withinPolicy s n) :
    exec (.dec n) s = .next (complete (decPass n (Fin.ofNat 11 (n - 1)) s)) := by
  rw [exec_dec_of_allowed hsched hstate, if_neg hn, if_neg fun h => not_withinPolicy_iff.mpr h hpol]

end Dec

/-- Settles O55, check by check. -/
theorem decFaultsInTheStatedOrder : Obligations.DecFaultsInTheStatedOrder := fun _ _ =>
  ⟨fun _ => encode_eq_matchWord_add (by simp [Instr.row, Instr.opcode]),
    exec_dec_idle, exec_dec_fixed, exec_dec_out_of_sequence, exec_dec_zero, exec_dec_outside_policy⟩

/-! ### The round keys -/

theorem engineKey_fixed {s : State} (h : s.variant = .fixed) (r : Nat) : engineKey s r = s.fkey := by
  rw [engineKey, h]

/-- Within the policy every round of a pass has a key of the table (42_feistel.md R198). -/
theorem engineKey_sched {s : State} {n r : Nat} (h : s.variant = .sched) (hpol : withinPolicy s n)
    (hr : r < n) : engineKey s r = roundKey s.w (Fin.ofNat 11 r) := by
  simp [engineKey, h, keyIndex_of_withinPolicy hpol hr]

/-! ### The passes as folds over the round numbers -/

section Passes

variable (f : RoundFn) (key : Nat → Block128)

/-- ENC's rounds come in rising order (42_feistel.md R193, R199). -/
theorem encRounds_eq_foldl (n : Nat) (p : Block128 × Block128) :
    encRounds f key n p = (List.range n).foldl (fun q r => encRound f (key r) q) p := by
  induction n with
  | zero => rfl
  | succ n ih => rw [encRounds, ih, List.range_succ, List.foldl_concat]

/-- DEC's rounds come in falling order (42_feistel.md R194, R199). -/
theorem decRounds_eq_foldl (n : Nat) (p : Block128 × Block128) :
    decRounds f key n p = (List.range n).reverse.foldl (fun q r => decRound f (key r) q) p := by
  induction n generalizing p with
  | zero => rfl
  | succ n ih => rw [decRounds, ih, List.range_succ, List.reverse_concat, List.foldl_cons]

variable {key} {key' : Nat → Block128} {n : Nat}

/-- A pass depends on the keys of its own rounds only. -/
theorem encRounds_congr (h : ∀ r < n, key r = key' r) (p : Block128 × Block128) :
    encRounds f key n p = encRounds f key' n p := by
  induction n with
  | zero => rfl
  | succ n ih =>
    rw [encRounds, encRounds, h n (Nat.lt_succ_self n), ih fun r hr => h r (Nat.lt_succ_of_lt hr)]

theorem decRounds_congr (h : ∀ r < n, key r = key' r) (p : Block128 × Block128) :
    decRounds f key n p = decRounds f key' n p := by
  induction n generalizing p with
  | zero => rfl
  | succ n ih =>
    rw [decRounds, decRounds, h n (Nat.lt_succ_self n), ih fun r hr => h r (Nat.lt_succ_of_lt hr)]

end Passes

/-! ### The passes -/

/-- Settles O51: every round's key is FKEY, and CURSOR is left. -/
theorem encFixedRunsRoundsWithFkey : Obligations.EncFixedRunsRoundsWithFkey := by
  intro s n hready hfixed hn
  have hkeys := encRounds_congr s.rfsel (n := n) (fun r _ => engineKey_fixed hfixed r)
    (s.left, s.right)
  refine ⟨(encPass n s).left, (encPass n s).right, ?next, ?rounds⟩
  case next =>
    rw [exec_enc_of_ready hready hn (by simp [hfixed])]
    simp [complete, encPass, hfixed]
  case rounds => exact hkeys.trans (encRounds_eq_foldl ..)

/-- Settles O52: within the policy round r has the key of index r mod 11. -/
theorem encScheduledRunsRoundsInRisingOrder : Obligations.EncScheduledRunsRoundsInRisingOrder := by
  intro s n hready hsched hn hpol
  have hkeys := encRounds_congr s.rfsel (fun r hr => engineKey_sched hsched hpol hr)
    (s.left, s.right)
  refine ⟨(encPass n s).left, (encPass n s).right, ?next, ?rounds⟩
  case next =>
    rw [exec_enc_of_ready hready hn fun _ => hpol]
    simp [complete, encPass, hsched]
  case rounds => exact hkeys.trans (encRounds_eq_foldl ..)

/-- Settles O53: within the policy round r has the key of index r mod 11, and the first round, n - 1,
names CURSOR. -/
theorem decScheduledRunsRoundsInFallingOrder :
    Obligations.DecScheduledRunsRoundsInFallingOrder := by
  intro s n hsched hstate hn hpol
  have hkeys := decRounds_congr s.rfsel (fun r hr => engineKey_sched hsched hpol hr)
    (s.left, s.right)
  exact ⟨_, _, Fin.ofNat 11 (n - 1), exec_dec_within_policy hsched hstate hn hpol, rfl,
    hkeys.trans (decRounds_eq_foldl ..)⟩

end Sys2Proof.Machine
end

section
/-!
What every step keeps (42_feistel.md R190, 60_exceptions.md R241, R244, 70_reset_and_hazards.md R280).
A command either raises a fault, which changes the fault state only, or succeeds; what a success may do
to the registers of the invariant is said once, in `Succeeds`, and each part of the invariant follows
from it. The host and the reset input touch none of these registers, or reset them all.
-/

namespace Sys2Proof.Machine

open Sys2Proof

/-! ### A command faults or succeeds -/

/-- t has the (STATE, VARIANT, LASTOP) of s. -/
def keepsEngine (s t : State) : Prop :=
  t.engine = s.engine ∧ t.variant = s.variant ∧ t.lastop = s.lastop

theorem keepsEngine_iff (s t : State) :
    keepsEngine s t ↔ (t.engine, t.variant, t.lastop) = (s.engine, s.variant, s.lastop) := by
  simp [keepsEngine]

/-- What a command that raises no fault may do to the reset level, the fault state, KEYVALID and the
engine. -/
structure Succeeds (i : Instr) (s t : State) : Prop where
  rst : t.rst = s.rst
  /-- Only CLRERR touches the fault state (43_control.md R231). -/
  fault : i ≠ .clrerr → t.err = s.err ∧ t.ecode = s.ecode
  /-- Only EXPAND touches KEYVALID (10_state.md R30). -/
  keyvalid : i ≠ .expand → t.keyvalid = s.keyvalid
  /-- The engine moves by a row of the table of transitions only (42_feistel.md R190). -/
  engine : keepsEngine s t ∨ engineTransition i s t

theorem Succeeds.complete {i : Instr} {s u : State} (h : Succeeds i s u) :
    Succeeds i s (complete u) :=
  ⟨h.rst, h.fault, h.keyvalid, h.engine⟩

/-- All a command can do to these registers, with or without a fault (60_exceptions.md R241). -/
theorem exec_faults_or_succeeds {i : Instr} {s t : State} (h : exec i s = .next t) :
    (∃ c : FaultCode, c ≠ .none ∧ t = raiseFault c s) ∨ Succeeds i s t := by
  cases i with
  | setpos n =>
    rcases execSetpos_next h with ⟨-, rfl⟩ | ⟨-, -, -, rfl⟩ | ⟨-, -, rfl⟩
    · exact .inl ⟨.enokey, by decide, rfl⟩
    · exact .inl ⟨.eindex, by decide, rfl⟩
    · exact .inr (.complete ⟨rfl, fun _ => ⟨rfl, rfl⟩, fun _ => rfl, .inl ⟨rfl, rfl, rfl⟩⟩)
  | getkey n =>
    rcases execGetkey_next h with ⟨-, rfl⟩ | ⟨-, -, -, rfl⟩ | ⟨-, -, rfl⟩
    · exact .inl ⟨.enokey, by decide, rfl⟩
    · exact .inl ⟨.eindex, by decide, rfl⟩
    · exact .inr (.complete ⟨rfl, fun _ => ⟨rfl, rfl⟩, fun _ => rfl, .inl ⟨rfl, rfl, rfl⟩⟩)
  | nextkey =>
    rcases execNextkey_next h with ⟨-, rfl⟩ | ⟨-, rfl⟩
    · exact .inl ⟨.enokey, by decide, rfl⟩
    · exact .inr (.complete ⟨rfl, fun _ => ⟨rfl, rfl⟩, fun _ => rfl, .inl ⟨rfl, rfl, rfl⟩⟩)
  | initf =>
    cases h
    exact .inr (.complete ⟨rfl, fun _ => ⟨rfl, rfl⟩, fun _ => rfl, .inr (.inl ⟨rfl, rfl, rfl, rfl⟩)⟩)
  | inits =>
    rcases execInits_next h with ⟨-, rfl⟩ | ⟨hkey, rfl⟩
    · exact .inl ⟨.enokey, by decide, rfl⟩
    · exact .inr (.complete ⟨rfl, fun _ => ⟨rfl, rfl⟩, fun _ => rfl,
        .inr (.inr (.inl ⟨rfl, hkey, rfl, rfl, rfl⟩))⟩)
  | enc n =>
    rcases execEnc_next h with ⟨-, rfl⟩ | ⟨-, -, rfl⟩ | ⟨-, -, -, -, rfl⟩ | ⟨hready, -, -, rfl⟩
    · exact .inl ⟨.eseq, by decide, rfl⟩
    · exact .inl ⟨.erounds, by decide, rfl⟩
    · exact .inl ⟨.eindex, by decide, rfl⟩
    · exact .inr (.complete ⟨rfl, fun _ => ⟨rfl, rfl⟩, fun _ => rfl,
        .inr (.inr (.inr (.inl ⟨n, rfl, hready, rfl, rfl, rfl⟩)))⟩)
  | dec n =>
    rcases execDec_next h with
      ⟨-, -, rfl⟩ | ⟨-, -, rfl⟩ | ⟨-, -, rfl⟩ | ⟨-, -, -, rfl⟩ | ⟨hallowed, -, -, rfl⟩
    · exact .inl ⟨.eseq, by decide, rfl⟩
    · exact .inl ⟨.evariant, by decide, rfl⟩
    · exact .inl ⟨.erounds, by decide, rfl⟩
    · exact .inl ⟨.eindex, by decide, rfl⟩
    · obtain ⟨hsched, hstate⟩ := (decAllowed_iff s).mp hallowed
      exact .inr (.complete ⟨rfl, fun _ => ⟨rfl, rfl⟩, fun _ => rfl,
        .inr (.inr (.inr (.inr ⟨n, rfl, hsched, hstate, rfl, hsched, rfl⟩)))⟩)
  | expand =>
    cases h
    exact .inr (.complete ⟨rfl, fun _ => ⟨rfl, rfl⟩, fun hne => absurd rfl hne,
      .inl ⟨rfl, rfl, rfl⟩⟩)
  | clrerr =>
    cases h
    exact .inr (.complete ⟨rfl, fun hne => absurd rfl hne, fun _ => rfl, .inl ⟨rfl, rfl, rfl⟩⟩)
  | _ =>
    cases h
    exact .inr (.complete ⟨rfl, fun _ => ⟨rfl, rfl⟩, fun _ => rfl, .inl ⟨rfl, rfl, rfl⟩⟩)

theorem exec_busy {i : Instr} {s t : State} (h : exec i s = .next t) : t.busy = false := by
  obtain ⟨u, hu, hidle⟩ := exec_completes i s
  cases hu.symm.trans h
  exact hidle

/-! ### The engine changes by the table of transitions only -/

theorem exec_engine {i : Instr} {s t : State} (h : exec i s = .next t) :
    keepsEngine s t ∨ engineTransition i s t := by
  rcases exec_faults_or_succeeds h with ⟨c, -, rfl⟩ | hsucceeds
  · exact .inl ⟨rfl, rfl, rfl⟩
  · exact hsucceeds.engine

theorem engineTransition_of_exec {i : Instr} {s t : State} (h : exec i s = .next t)
    (hne : (t.engine, t.variant, t.lastop) ≠ (s.engine, s.variant, s.lastop)) :
    engineTransition i s t :=
  (exec_engine h).resolve_left fun hkeep => hne ((keepsEngine_iff s t).mp hkeep)

/-- Settles O57: a step touches the engine through a decoded command or reset only, and a command that
does not keep it moves it by a row of the table. -/
theorem engineStateChangesOnlyAsTheTableSays :
    Obligations.EngineStateChangesOnlyAsTheTableSays := by
  refine ⟨fun i s t => engineTransition_of_exec, fun s t h hne => ?_⟩
  rcases step_scheduler_engine h with
    ⟨hmoves, i, hdecode, hexec⟩ | ⟨hreset, rfl⟩ | ⟨-, -, -, hengine, hvariant, hlastop⟩
  · have hrow := engineTransition_of_exec hexec hne
    exact .inl ⟨hmoves, i, hdecode, hrow⟩
  · exact .inr ⟨hreset, rfl, rfl, rfl⟩
  · exact absurd ((keepsEngine_iff s t).mp ⟨hengine, hvariant, hlastop⟩) hne

/-! ### The invariant through a command, part by part -/

/-- Every row of the table of transitions ends in fields that agree (42_feistel.md R190). -/
theorem engineConsistent_of_transition {i : Instr} {s t : State} (hs : engineConsistent s)
    (h : engineTransition i s t) : engineConsistent t := by
  rcases h with ⟨-, he, hv, hl⟩ | ⟨-, -, he, hv, hl⟩ | ⟨n, -, hready, he, hv, hl⟩ |
    ⟨n, -, -, -, he, hv, hl⟩
  · simp [engineConsistent, he, hv, hl]
  · simp [engineConsistent, he, hv, hl]
  · have hvariant : s.variant ≠ .none := fun hnone => by
      have hidle := hs.1.mp hnone
      simp [hready] at hidle
    simp [engineConsistent, he, hv, hl, hvariant]
  · simp [engineConsistent, he, hv, hl]

/-- A row that gives the scheduled variant starts with a key (42_feistel.md R190, R192). -/
theorem keyvalid_of_transition {i : Instr} {s t : State} (hs : schedHasKey s)
    (h : engineTransition i s t) (hsched : t.variant = .sched) : s.keyvalid = true := by
  rcases h with ⟨-, -, hv, -⟩ | ⟨-, hkey, -⟩ | ⟨n, -, -, -, hv, -⟩ | ⟨n, -, hv, -⟩
  · cases hv.symm.trans hsched
  · exact hkey
  · exact hs (hv.symm.trans hsched)
  · exact hs hv

theorem exec_engineConsistent {i : Instr} {s t : State} (hs : engineConsistent s)
    (h : exec i s = .next t) : engineConsistent t := by
  rcases exec_engine h with ⟨he, hv, hl⟩ | hrow
  · exact (engineConsistent_congr he hv hl).mpr hs
  · exact engineConsistent_of_transition hs hrow

/-- No command clears KEYVALID (10_state.md R30). -/
theorem exec_keyvalid {i : Instr} {s t : State} (h : exec i s = .next t)
    (hkey : s.keyvalid = true) : t.keyvalid = true := by
  by_cases hi : i = .expand
  · subst hi
    cases h
    rfl
  · rcases exec_faults_or_succeeds h with ⟨c, -, rfl⟩ | hsucceeds
    · exact hkey
    · rw [hsucceeds.keyvalid hi, hkey]

theorem exec_schedHasKey {i : Instr} {s t : State} (hs : schedHasKey s)
    (h : exec i s = .next t) : schedHasKey t := by
  intro hsched
  rcases exec_engine h with ⟨-, hv, -⟩ | hrow
  · exact exec_keyvalid h (hs (hv.symm.trans hsched))
  · exact exec_keyvalid h (keyvalid_of_transition hs hrow hsched)

/-- A fault has a code (60_exceptions.md R240). -/
theorem faultConsistent_raiseFault {c : FaultCode} (hc : c ≠ .none) (s : State) :
    faultConsistent (raiseFault c s) := by
  simp [faultConsistent, hc]

theorem exec_faultConsistent {i : Instr} {s t : State} (hs : faultConsistent s)
    (h : exec i s = .next t) : faultConsistent t := by
  rcases exec_faults_or_succeeds h with ⟨c, hc, rfl⟩ | hsucceeds
  · exact faultConsistent_raiseFault hc s
  · by_cases hi : i = .clrerr
    · subst hi
      cases h
      simp [faultConsistent]
    · obtain ⟨herr, hecode⟩ := hsucceeds.fault hi
      exact (faultConsistent_congr herr hecode).mpr hs

/-- Without a key only EXPAND moves CURSOR: the scheduler's commands fault, and the engine is not of the
scheduled variant (10_state.md R29, 41_key_schedule.md R158). -/
theorem exec_cursor_of_no_key {i : Instr} {s t : State} (hs : schedHasKey s)
    (hkey : s.keyvalid = false) (h : exec i s = .next t) (hi : i ≠ .expand) :
    t.cursor = s.cursor := by
  have hvariant : s.variant ≠ .sched := fun hsched => by simp [hs hsched] at hkey
  by_contra hne
  rcases writesCursor_of_exec h hne with rfl | rfl | ⟨n, rfl | rfl | ⟨-, hsched⟩⟩
  · cases (exec_nextkey_no_key hkey).symm.trans h
    exact hne rfl
  · exact hi rfl
  · cases (execIndexed_no_key _ hkey).symm.trans h
    exact hne rfl
  · rcases execDec_next h with
      ⟨-, -, rfl⟩ | ⟨-, -, rfl⟩ | ⟨hallowed, -⟩ | ⟨hallowed, -⟩ | ⟨hallowed, -⟩
    · exact hne rfl
    · exact hne rfl
    all_goals exact hvariant ((decAllowed_iff s).mp hallowed).1
  · exact hvariant hsched

theorem exec_tableConsistent {i : Instr} {s t : State} (hs : schedHasKey s)
    (htable : tableConsistent s) (h : exec i s = .next t) : tableConsistent t := by
  by_cases hi : i = .expand
  · subst hi
    cases h
    exact ⟨fun _ => ⟨s.rootkey, rfl⟩, nofun⟩
  · have hw : t.w = s.w := exec_w h hi
    have hkeyvalid : t.keyvalid = s.keyvalid := by
      rcases exec_faults_or_succeeds h with ⟨c, -, rfl⟩ | hsucceeds
      · rfl
      · exact hsucceeds.keyvalid hi
    cases hkey : s.keyvalid with
    | true =>
      refine ⟨fun _ => ?_, fun hno => ?_⟩
      · rw [hw]
        exact htable.1 hkey
      · simp [hkeyvalid, hkey] at hno
    | false =>
      have hcursor : t.cursor = s.cursor := exec_cursor_of_no_key hs hkey h hi
      exact (tableConsistent_congr hkeyvalid hw hcursor).mpr htable

/-- Outside reset a command keeps the invariant. -/
theorem exec_inv {i : Instr} {s t : State} (hinv : s.Inv) (hr : s.rst = false)
    (h : exec i s = .next t) : t.Inv := by
  obtain ⟨hkey, hengine, hfault, -, htable, -⟩ := hinv
  have hrst : t.rst = false := by
    rcases exec_faults_or_succeeds h with ⟨c, -, rfl⟩ | hsucceeds
    · exact hr
    · rw [hsucceeds.rst, hr]
  exact ⟨exec_schedHasKey hkey h, exec_engineConsistent hengine h, exec_faultConsistent hfault h,
    onlyClrerrPending_of_not_busy (exec_busy h), exec_tableConsistent hkey htable h,
    resetHeld_of_released hrst⟩

/-! ### The invariant through every other update -/

theorem State.Inv.onlyClrerrPending {s : State} (hinv : s.Inv) : onlyClrerrPending s := by
  obtain ⟨-, -, -, hpend, -, -⟩ := hinv
  exact hpend

theorem State.Inv.resetHeld {s : State} (hinv : s.Inv) : resetHeld s := by
  obtain ⟨-, -, -, -, -, hheld⟩ := hinv
  exact hheld

/-- t has the registers of s that the invariant speaks of, other than PEND and BUSY. -/
structure KeepsInvRegisters (s t : State) : Prop where
  w : t.w = s.w
  cursor : t.cursor = s.cursor
  keyvalid : t.keyvalid = s.keyvalid
  engine : t.engine = s.engine
  variant : t.variant = s.variant
  lastop : t.lastop = s.lastop
  err : t.err = s.err
  ecode : t.ecode = s.ecode

theorem KeepsInvRegisters.inv {s t : State} (hkeeps : KeepsInvRegisters s t) (hinv : s.Inv)
    (hpend : onlyClrerrPending t) (hheld : resetHeld t) : t.Inv := by
  obtain ⟨hkey, hengine, hfault, -, htable, -⟩ := hinv
  exact ⟨(schedHasKey_congr hkeeps.variant hkeeps.keyvalid).mpr hkey,
    (engineConsistent_congr hkeeps.engine hkeeps.variant hkeeps.lastop).mpr hengine,
    (faultConsistent_congr hkeeps.err hkeeps.ecode).mpr hfault, hpend,
    (tableConsistent_congr hkeeps.keyvalid hkeeps.w hkeeps.cursor).mpr htable, hheld⟩

theorem keepsInvRegisters_memWrite (a : WindowAddr) (v : Word) (s : State) :
    KeepsInvRegisters s (memWrite a v s) := by
  obtain ⟨hw, hcursor, hkeyvalid, hengine, hvariant, hlastop, herr, hecode, -⟩ := memWrite_frame a v s
  exact ⟨hw, hcursor, hkeyvalid, hengine, hvariant, hlastop, herr, hecode⟩

theorem memWrite_rst (a : WindowAddr) (v : Word) (s : State) : (memWrite a v s).rst = s.rst := by
  simp [memWrite_frame a v s]

/-- A write issues a command only where BUSY = 0, and while ERR = 1 only CLRERR (20_memory.md R66,
60_exceptions.md R244). -/
theorem onlyClrerrPending_memWrite {s : State} (h : onlyClrerrPending s) (a : WindowAddr) (v : Word) :
    onlyClrerrPending (memWrite a v s) := by
  rcases memWrite_cases a v s with ⟨-, hovr⟩ | ⟨hidle, hkeep | ⟨haccepted, hissue⟩ | hother⟩
  · rw [hovr]
    exact h
  · rw [hkeep]
    exact h
  · rw [hissue]
    exact fun herr _ => haccepted herr
  · have hbusy : (memWrite a v s).busy = false := by
      rcases hother with hw | ⟨x, hw⟩ | ⟨x, hw⟩ | ⟨x, hw⟩ | ⟨x, hw⟩ | ⟨x, hw⟩ <;> rw [hw] <;>
        exact hidle
    exact onlyClrerrPending_of_not_busy hbusy

theorem resetHeld_schedule {s : State} (h : resetHeld s) (turns : List Turn) :
    resetHeld { s with schedule := turns } := fun hr =>
  congrArg (fun u : State => { u with schedule := turns }) (h hr)

/-- The interleaving is no register (log entry 1). -/
theorem inv_schedule {s : State} (hinv : s.Inv) (turns : List Turn) :
    { s with schedule := turns }.Inv := by
  exact KeepsInvRegisters.inv (s := s) ⟨rfl, rfl, rfl, rfl, rfl, rfl, rfl, rfl⟩ hinv
    hinv.onlyClrerrPending (resetHeld_schedule hinv.resetHeld turns)

/-- Outside reset the host's own fields are free (log entries 2, 4). -/
theorem inv_hostFields {s : State} (hinv : s.Inv) (hr : s.rst = false) (ops : List HostOp)
    (values : List Word) (d : Nat) : { s with host := ops, reads := values, draws := d }.Inv := by
  exact KeepsInvRegisters.inv (s := s) ⟨rfl, rfl, rfl, rfl, rfl, rfl, rfl, rfl⟩ hinv
    hinv.onlyClrerrPending (resetHeld_of_released hr)

theorem memWrite_inv {s : State} (hinv : s.Inv) (hr : s.rst = false) (a : WindowAddr) (v : Word) :
    (memWrite a v s).Inv := by
  exact (keepsInvRegisters_memWrite a v s).inv hinv
    (onlyClrerrPending_memWrite hinv.onlyClrerrPending a v)
    (resetHeld_of_released ((memWrite_rst a v s).trans hr))

theorem raiseFault_inv {s : State} {c : FaultCode} (hinv : s.Inv) (hr : s.rst = false)
    (hc : c ≠ .none) : (raiseFault c s).Inv := by
  obtain ⟨hkey, hengine, -, -, htable, -⟩ := hinv
  exact ⟨hkey, hengine, faultConsistent_raiseFault hc s, onlyClrerrPending_of_not_busy rfl, htable,
    resetHeld_of_released hr⟩

/-- The reset event reaches the invariant from every state (70_reset_and_hazards.md R280, R281). -/
theorem assertReset_inv (s : State) : (assertReset s).Inv :=
  ⟨nofun, by simp [engineConsistent, State.reset], by simp [faultConsistent, State.reset],
    onlyClrerrPending_of_not_busy rfl, ⟨nofun, fun _ => ⟨rfl, rfl⟩⟩, fun _ => rfl⟩

theorem releaseReset_inv {s : State} (hinv : s.Inv) : (releaseReset s).Inv := by
  exact KeepsInvRegisters.inv (s := s) ⟨rfl, rfl, rfl, rfl, rfl, rfl, rfl, rfl⟩ hinv
    hinv.onlyClrerrPending (resetHeld_of_released rfl)

/-! ### The invariant through every turn -/

theorem engineTurn_inv {s t : State} (hinv : s.Inv) (h : engineTurn s = .next t) : t.Inv := by
  rcases engineTurn_next h with ⟨-, rfl⟩ | ⟨hr, -, -, rfl⟩ | ⟨hr, -, i, -, hexec⟩
  · exact hinv
  · exact raiseFault_inv hinv hr (by decide)
  · exact exec_inv hinv hr hexec

theorem hostTurn_inv {s t : State} (hinv : s.Inv) (h : hostTurn s = .next t) : t.Inv := by
  rcases hostTurn_next h with
    ⟨-, rfl⟩ | ⟨hr, op, rest, -, ⟨a, -, rfl⟩ | ⟨a, v, -, rfl⟩ | ⟨-, rfl⟩⟩
  · exact hinv
  · exact inv_hostFields hinv hr _ _ _
  · exact memWrite_inv (inv_hostFields hinv hr rest s.reads s.draws) hr a v
  · exact inv_hostFields hinv hr _ _ _

/-- Settles O13, by the agent whose turn it is; the turn itself leaves the interleaving only. -/
theorem reachableInvariantIsKeptByEveryStep :
    Obligations.ReachableInvariantIsKeptByEveryStep := by
  intro s t hinv h
  obtain ⟨u, rfl, hturn⟩ := step_next h
  have hturnless := inv_schedule hinv s.schedule.tail
  rcases hturn with ⟨hengine, -⟩ | ⟨hhost, -⟩ | ⟨-, rfl⟩ | ⟨-, rfl⟩ | ⟨-, -, rfl⟩
  · exact engineTurn_inv hturnless hengine
  · exact hostTurn_inv hturnless hhost
  · exact assertReset_inv _
  · exact releaseReset_inv hturnless
  · exact hinv

end Sys2Proof.Machine
end

section
/-!
The control commands NOP and CLRERR (43_control.md R230, R231): the word of each, the next state it
answers, the words beside NOP's, and when a write of the word to CMD is accepted.
-/

namespace Sys2Proof.Machine

open Sys2Proof

/-! ### Writes of CMD while ERR = 1 -/

/-- While ERR = 1 every command but CLRERR is discarded (20_memory.md R66, 60_exceptions.md R244). -/
theorem memWrite_cmd_discarded {s : State} {v : Word} (hidle : s.busy = false) (herr : s.err = true)
    (hv : v ≠ clrerrWord) : memWrite 0x000#9 v s = s :=
  (memWrite_cmd hidle v).trans (issueCommand_discarded herr hv)

/-! ### NOP -/

theorem exec_nop (s : State) : exec .nop s = .next { s with busy := false } := rfl

/-- NOP's row is the only one with OPC 0x00 (30_encoding.md R93). -/
theorem eq_nop_of_opcode {i : Instr} (h : i.opcode = 0x00#8) : i = .nop := by
  cases i with
  | nop => rfl
  | _ => cases h

/-- With OPC 0x00, no word but NOP's own decodes (30_encoding.md R94). -/
theorem eq_zero_of_decode_of_opc_zero {v : Word} {i : Instr} (hopc : v.extractLsb' 24 8 = 0x00#8)
    (h : decode v = .ok i) : v = 0#32 := by
  obtain ⟨hopci, -⟩ := decode_ok h
  obtain rfl : i = .nop := eq_nop_of_opcode (hopci.symm.trans hopc)
  obtain ⟨hword, -⟩ := decode_eq_ok_iff.mp h
  exact hword.symm

/-- Settles O29: a word beside NOP's decodes to no command; the discarded writes are CMD's. -/
theorem nopOnlyCompletes : Obligations.NopOnlyCompletes := by
  refine ⟨rfl, exec_nop, fun v hopc hne => ?siblings, fun s hidle herr => ?discarded,
    fun s hbusy => memWrite_busy hbusy _ _⟩
  case siblings =>
    exact faultsIllegal_of_not_decode fun _ hi => hne (eq_zero_of_decode_of_opc_zero hopc hi)
  case discarded => exact memWrite_cmd_discarded hidle herr (by decide)

/-! ### CLRERR -/

theorem exec_clrerr (s : State) : exec .clrerr s =
    .next { s with err := false, ecode := .none, ovr := false, busy := false } := rfl

/-- err_o is low while ERR = 0, whatever ERRIE (60_exceptions.md R250). -/
theorem errOut_of_no_err {s : State} (h : s.err = false) : errOut s = false := by
  rw [errOut, h, Bool.false_and]

/-- Settles O30: CLRERR's is the one word that CMD accepts with either value of ERR. -/
theorem clrerrClearsTheFaultState : Obligations.ClrerrClearsTheFaultState := by
  refine ⟨rfl, fun s => ⟨exec_clrerr s, errOut_of_no_err rfl⟩,
    fun s v hidle herr hv => memWrite_cmd_discarded hidle herr hv, fun s hidle => ?accepted⟩
  case accepted => exact (memWrite_cmd hidle clrerrWord).trans (issueCommand_accepted fun _ => rfl)

end Sys2Proof.Machine
end

section
/-!
Faults and the error output (60_exceptions.md R240 to R250). With ERR = 0 before, a command ends with
ERR = 1 only where one of its checks fails; with ERR = 1 the ENGINE can execute CLRERR only, and no
host access touches ERR, ECODE or ERRCMD.
-/

namespace Sys2Proof.Machine

open Sys2Proof

/-! ### A fault is raised by a failing check and changes the fault state only -/

/-- A command that sets ERR has raised a fault (60_exceptions.md R241). -/
theorem eq_raiseFault_of_exec {i : Instr} {s t : State} (hclear : s.err = false)
    (h : exec i s = .next t) (herr : t.err = true) :
    ∃ c : FaultCode, c ≠ .none ∧ t = raiseFault c s := by
  rcases exec_faults_or_succeeds h with hfault | hsucceeds
  · exact hfault
  · by_cases hi : i = .clrerr
    · subst hi
      cases h
      cases herr
    · obtain ⟨hkeep, -⟩ := hsucceeds.fault hi
      cases herr.symm.trans (hkeep.trans hclear)

/-- A pending word that sets ERR has raised a fault, whether or not it decodes (30_encoding.md R92). -/
theorem eq_raiseFault_of_runPending {s t : State} (hclear : s.err = false)
    (h : runPending s = .next t) (herr : t.err = true) :
    ∃ c : FaultCode, c ≠ .none ∧ t = raiseFault c s := by
  cases hd : decode s.pend with
  | error e =>
    cases (faultsIllegal_of_decode_error hd s rfl).symm.trans h
    exact ⟨.eillegal, by decide, rfl⟩
  | ok i =>
    rw [runPending_of_decode hd] at h
    exact eq_raiseFault_of_exec hclear h herr

/-- Settles O25: either way of setting ERR raises a fault, which writes ERR, ECODE, ERRCMD and BUSY. -/
theorem faultingCommandIsPrecise : Obligations.FaultingCommandIsPrecise := by
  refine ⟨fun i s t hclear h herr => ?command, fun s t hclear h herr => ?word⟩
  case command =>
    obtain ⟨c, hc, rfl⟩ := eq_raiseFault_of_exec hclear h herr
    exact ⟨hc, rfl⟩
  case word =>
    obtain ⟨c, hc, rfl⟩ := eq_raiseFault_of_runPending hclear h herr
    exact ⟨hc, rfl⟩

/-! ### The commands that raise each code -/

/-- R240's table by command, less EILLEGAL, which is of words and not of commands; a pass needs more
than 11 rounds to name an index above 10 (42_feistel.md R193, R194). -/
inductive MayRaise (s : State) : Instr → FaultCode → Prop where
  | enc_eseq (n : Nat) : MayRaise s (.enc n) .eseq
  | dec_eseq (n : Nat) : MayRaise s (.dec n) .eseq
  | dec_evariant (n : Nat) : MayRaise s (.dec n) .evariant
  | enc_erounds : MayRaise s (.enc 0) .erounds
  | dec_erounds : MayRaise s (.dec 0) .erounds
  | inits_enokey : MayRaise s .inits .enokey
  | setpos_enokey (n : Nat) : MayRaise s (.setpos n) .enokey
  | getkey_enokey (n : Nat) : MayRaise s (.getkey n) .enokey
  | nextkey_enokey : MayRaise s .nextkey .enokey
  | setpos_eindex {n : Nat} (hn : 10 < n) : MayRaise s (.setpos n) .eindex
  | getkey_eindex {n : Nat} (hn : 10 < n) : MayRaise s (.getkey n) .eindex
  | enc_eindex {n : Nat} (hn : 11 < n) (hsched : s.variant = .sched) : MayRaise s (.enc n) .eindex
  | dec_eindex {n : Nat} (hn : 11 < n) : MayRaise s (.dec n) .eindex

/-- The code that a command which sets ERR leaves is that of one of its checks. -/
theorem exec_mayRaise {i : Instr} {s t : State} (hclear : s.err = false)
    (h : exec i s = .next t) (herr : t.err = true) : MayRaise s i t.ecode := by
  cases i with
  | setpos n =>
    rcases execSetpos_next h with ⟨-, rfl⟩ | ⟨-, -, hn, rfl⟩ | ⟨-, -, rfl⟩
    · exact .setpos_enokey n
    · exact .setpos_eindex hn
    · simp [hclear] at herr
  | getkey n =>
    rcases execGetkey_next h with ⟨-, rfl⟩ | ⟨-, -, hn, rfl⟩ | ⟨-, -, rfl⟩
    · exact .getkey_enokey n
    · exact .getkey_eindex hn
    · simp [hclear] at herr
  | nextkey =>
    rcases execNextkey_next h with ⟨-, rfl⟩ | ⟨-, rfl⟩
    · exact .nextkey_enokey
    · simp [hclear] at herr
  | inits =>
    rcases execInits_next h with ⟨-, rfl⟩ | ⟨-, rfl⟩
    · exact .inits_enokey
    · simp [hclear] at herr
  | enc n =>
    rcases execEnc_next h with ⟨-, rfl⟩ | ⟨-, rfl, rfl⟩ | ⟨-, hsched, -, hn, rfl⟩ | ⟨-, -, -, rfl⟩
    · exact .enc_eseq n
    · exact .enc_erounds
    · exact .enc_eindex hn hsched
    · simp [hclear] at herr
  | dec n =>
    rcases execDec_next h with
      ⟨-, -, rfl⟩ | ⟨-, -, rfl⟩ | ⟨-, rfl, rfl⟩ | ⟨-, -, hn, rfl⟩ | ⟨-, -, -, rfl⟩
    · exact .dec_eseq n
    · exact .dec_evariant n
    · exact .dec_erounds
    · exact .dec_eindex hn
    · simp [hclear] at herr
  | _ => cases h; simp [hclear] at herr

/-- Settles O26, by the row of R240's table. -/
theorem faultCodesComeFromTheirCommands : Obligations.FaultCodesComeFromTheirCommands := by
  intro i s t hclear h herr
  have hraise := exec_mayRaise hclear h herr
  generalize t.ecode = c at hraise ⊢
  cases hraise with
  | enc_eseq n => exact ⟨n, .inl rfl⟩
  | dec_eseq n => exact ⟨n, .inr rfl⟩
  | dec_evariant n => exact ⟨n, rfl⟩
  | enc_erounds => exact .inl rfl
  | dec_erounds => exact .inr rfl
  | inits_enokey => exact .inl rfl
  | nextkey_enokey => exact .inr (.inl rfl)
  | setpos_enokey n => exact .inr (.inr ⟨n, .inl rfl⟩)
  | getkey_enokey n => exact .inr (.inr ⟨n, .inr rfl⟩)
  | setpos_eindex hn => exact ⟨_, hn, .inl rfl⟩
  | getkey_eindex hn => exact ⟨_, hn, .inr (.inl rfl)⟩
  | dec_eindex hn => exact ⟨_, Nat.lt_of_succ_lt hn, .inr (.inr (.inl rfl))⟩
  | enc_eindex hn hsched => exact ⟨_, Nat.lt_of_succ_lt hn, .inr (.inr (.inr ⟨rfl, hsched⟩))⟩

/-! ### Faults do not nest -/

theorem decode_clrerrWord : decode clrerrWord = .ok .clrerr := by decide

/-- With ERR = 1 the ENGINE has nothing to do or executes CLRERR (60_exceptions.md R244, R247). -/
theorem eq_or_err_clear_of_engineTurn {s t : State} (hpend : onlyClrerrPending s) (herr : s.err = true)
    (h : engineTurn s = .next t) : t = s ∨ t.err = false := by
  rcases engineTurn_next h with ⟨-, rfl⟩ | ⟨-, hbusy, ⟨e, hd⟩, -⟩ | ⟨-, hbusy, i, hd, hexec⟩
  · exact .inl rfl
  · rw [hpend herr hbusy, decode_clrerrWord] at hd
    cases hd
  · rw [hpend herr hbusy, decode_clrerrWord] at hd
    cases hd
    cases hexec
    exact .inr rfl

/-- No host access touches ECODE or ERRCMD (20_memory.md R64, 60_exceptions.md R244). -/
theorem hostTurn_fault_frame {s t : State} (h : hostTurn s = .next t) :
    t.ecode = s.ecode ∧ t.errcmd = s.errcmd := by
  rcases hostTurn_next h with
    ⟨-, rfl⟩ | ⟨-, op, rest, -, ⟨a, -, rfl⟩ | ⟨a, v, -, rfl⟩ | ⟨-, rfl⟩⟩
  · exact ⟨rfl, rfl⟩
  · exact ⟨rfl, rfl⟩
  · obtain ⟨-, -, -, -, -, -, -, hecode, herrcmd, -⟩ := memWrite_frame a v { s with host := rest }
    exact ⟨hecode, herrcmd⟩
  · exact ⟨rfl, rfl⟩

/-- Settles O27, by the agent whose turn it is: the ENGINE's and reset's ways of changing ECODE or
ERRCMD end with ERR = 0. -/
theorem faultsDoNotNest : Obligations.FaultsDoNotNest := by
  intro s t hinv herr h hstill
  obtain ⟨u, rfl, hturn⟩ := step_next h
  rcases hturn with ⟨hengine, -⟩ | ⟨hhost, -⟩ | ⟨-, rfl⟩ | ⟨-, rfl⟩ | ⟨-, -, rfl⟩
  · have hpend := (inv_schedule hinv s.schedule.tail).onlyClrerrPending
    rcases eq_or_err_clear_of_engineTurn hpend herr hengine with rfl | hcleared
    · exact ⟨rfl, rfl⟩
    · cases hstill.symm.trans hcleared
  · obtain ⟨hecode, herrcmd⟩ := hostTurn_fault_frame hhost
    exact ⟨hecode, herrcmd⟩
  · cases hstill
  · exact ⟨rfl, rfl⟩
  · exact ⟨rfl, rfl⟩

/-! ### The error output -/

theorem errOut_eq_true_iff (s : State) : errOut s = true ↔ s.err = true ∧ s.errie = true :=
  Bool.and_eq_true_iff

/-- err_o is low while ERRIE = 0, whatever ERR (60_exceptions.md R250). -/
theorem errOut_of_no_errie {s : State} (h : s.errie = false) : errOut s = false := by
  rw [errOut, h, Bool.and_false]

/-- Settles O28: CLRERR and reset clear ERR, the write of CTRL clears ERRIE. -/
theorem errorOutputFollowsErrAndErrie : Obligations.ErrorOutputFollowsErrAndErrie := by
  refine ⟨errOut_eq_true_iff, fun s => ⟨_, exec_clrerr s, errOut_of_no_err rfl⟩,
    fun s v hidle hv => ?masked, errOut_of_no_err rfl⟩
  case masked =>
    rw [memWrite_ctrl hidle]
    exact errOut_of_no_errie ((writeCtrl_errie v s).trans hv)

end Sys2Proof.Machine
end

section
/-!
Reset (70_reset_and_hazards.md R280, R281): what each turn does that asserts, meets or releases the
reset input, the values of the registers after it, and the invariant of the state it leaves.
-/

namespace Sys2Proof.Machine

open Sys2Proof

/-! ### Turns while reset is asserted -/

/-- Under reset the ENGINE changes nothing, whether or not BUSY = 1 (70_reset_and_hazards.md R280). -/
theorem engineTurn_in_reset {s : State} (hr : s.rst = true) : engineTurn s = .next s :=
  if_neg fun hmoves => by simp [hr] at hmoves

/-- Every host access under reset is refused (70_reset_and_hazards.md R280). -/
theorem hostTurn_in_reset {s : State} {op : HostOp} {ops : List HostOp} (hr : s.rst = true)
    (h : s.host = op :: ops) : hostTurn s = .refused .hostAccessInReset := by
  simp [hostTurn, h, hr]

/-- Settles O10, by the turn that the interleaving names. -/
theorem resetInputResetsEveryRegister : Obligations.ResetInputResetsEveryRegister := by
  refine ⟨fun s rest h => ?asserted, fun s rest hr h => ?engine,
    fun s rest op ops hr h hhost => ?host, fun s rest h => ?released⟩ <;>
    rw [step_of_schedule_cons h]
  case asserted => rfl
  case engine => exact engineTurn_in_reset hr
  case host => exact hostTurn_in_reset hr hhost
  case released => rfl

/-! ### The values after reset -/

theorem zeroBlock_getElem {n : Nat} (j : Fin n) : (zeroBlock n)[j] = 0#8 :=
  Vector.getElem_replicate j.isLt

theorem ctrlWord_reset : ctrlWord State.reset = 0#32 := rfl

theorem statusWord_reset : statusWord State.reset = 0#32 := rfl

/-- Each word of W reads 0 after reset (10_state.md R31). -/
theorem reset_w_getElem (i : Fin 44) : State.reset.w[i] = 0#32 :=
  Vector.getElem_replicate i.isLt

/-- Settles O11: the blocks byte by byte, W word by word, and word 4 of the zero key's expansion from
EXPAND's known answers (41_key_schedule.md R160). -/
theorem resetValuesAreTheTablesValues : Obligations.ResetValuesAreTheTablesValues := by
  have hblock (j : Fin 16) : (zeroBlock 16)[j] = 0#8 := zeroBlock_getElem j
  obtain ⟨-, -, hexpanded, -⟩ := expandBuildsTheKeyTable
  exact ⟨ctrlWord_reset, statusWord_reset, rfl,
    fun j => ⟨hblock j, hblock j, hblock j, hblock j, hblock j, hblock j, hblock j, hblock j⟩,
    zeroBlock_getElem, rfl, reset_w_getElem, rfl, rfl, rfl, rfl, rfl, rfl, rfl, rfl, rfl, rfl, rfl,
    rfl, rfl, errOut_of_no_err rfl, hexpanded⟩

/-! ### The invariant at reset -/

/-- The state after reset is that of the input asserted and released again, with no turn and no host
access to come (log entry 15). -/
theorem releaseReset_assertReset_reset : releaseReset (assertReset State.reset) = State.reset := rfl

/-- Settles O12: asserting reset reaches the invariant from every state, and its release keeps it. -/
theorem reachableInvariantHoldsAtReset : Obligations.ReachableInvariantHoldsAtReset := by
  have hinv : (releaseReset (assertReset State.reset)).Inv := releaseReset_inv (assertReset_inv _)
  rwa [releaseReset_assertReset_reset] at hinv

end Sys2Proof.Machine
end

section
/-!
The laws that the spec infers about the block functions (40_block_arith.md R129), and the walk of the
key scheduler's cursor (41_key_schedule.md R166).
-/

namespace Sys2Proof.Machine

open Sys2Proof

/-! ### xor128 and add8 -/

theorem xor128_comm (a b : Block128) : xor128 a b = xor128 b a := by
  ext j hj : 1
  rw [xor128_getElem, xor128_getElem, BitVec.xor_comm]

/-- XOR with the same block a second time undoes the first (40_block_arith.md R129). -/
theorem xor128_cancel_right (a k : Block128) : xor128 (xor128 a k) k = a := by
  ext j hj : 1
  rw [xor128_getElem, xor128_getElem, BitVec.xor_assoc, BitVec.xor_self, BitVec.xor_zero]

theorem xor128_cancel_left (a k : Block128) : xor128 k (xor128 a k) = a := by
  rw [xor128_comm, xor128_cancel_right]

theorem add8_comm (a b : Block128) : add8 a b = add8 b a := by
  ext j hj : 1
  rw [add8_getElem, add8_getElem, BitVec.add_comm]

/-! ### Split and join -/

theorem joinBlocks_split (y : Block256) : joinBlocks (splitLeft y) (splitRight y) = y := by
  ext j hj : 1
  by_cases hleft : j < 16
  · rw [joinBlocks_left _ _ j hleft, splitLeft_getElem]
  · obtain ⟨i, rfl⟩ := Nat.exists_eq_add_of_le (Nat.le_of_not_lt hleft)
    rw [joinBlocks_right _ _ i (by omega), splitRight_getElem]

theorem splitLeft_joinBlocks (l r : Block128) : splitLeft (joinBlocks l r) = l := by
  ext j hj : 1
  rw [splitLeft_getElem, joinBlocks_left l r j hj]

theorem splitRight_joinBlocks (l r : Block128) : splitRight (joinBlocks l r) = r := by
  ext j hj : 1
  rw [splitRight_getElem, joinBlocks_right l r j hj]

/-- Settles O36: each law holds byte by byte. -/
theorem blockFunctionsObeyTheAlgebraicLaws : Obligations.BlockFunctionsObeyTheAlgebraicLaws :=
  ⟨xor128_cancel_right, xor128_comm, add8_comm, joinBlocks_split,
    fun l r => ⟨splitLeft_joinBlocks l r, splitRight_joinBlocks l r⟩⟩

/-! ### The walk of NEXTKEY -/

/-- Advancing the cursor is counting mod 11 (41_key_schedule.md R156, R157). -/
theorem nextCursor_ofNat (i : Nat) : nextCursor (Fin.ofNat 11 i) = Fin.ofNat 11 (i + 1) := by
  apply Fin.ext
  rw [nextCursor_val]
  simp only [Fin.ofNat]
  split <;> omega

/-- From a cursor at index k the (i+1)-th NEXTKEY returns the round key of index k + i, mod 11; the
first of them hands the rest of the walk the index k + 1 (41_key_schedule.md R164). -/
theorem execAll_nextkeys {i k : Nat} {s : State} (hkey : s.keyvalid = true)
    (hcursor : s.cursor = Fin.ofNat 11 k) :
    ∃ t, execAll (List.replicate (i + 1) .nextkey) s = .next t ∧
      t.rkout = roundKey s.w (Fin.ofNat 11 (k + i)) := by
  induction i generalizing k s with
  | zero =>
    rw [List.replicate_succ, execAll_cons (exec_nextkey_of_key hkey), Nat.add_zero, ← hcursor]
    exact ⟨_, rfl, rfl⟩
  | succ i ih =>
    have hindex : k + (i + 1) = k + 1 + i := by omega
    rw [List.replicate_succ, execAll_cons (exec_nextkey_of_key hkey), hindex]
    exact ih (k := k + 1) hkey (by rw [hcursor, nextCursor_ofNat])

/-- Settles O46: from cursor 0 the walk arrives at the index that GETKEY names. -/
theorem nextkeyWalkAgreesWithGetkey : Obligations.NextkeyWalkAgreesWithGetkey := by
  intro s i hkey hcursor hindex
  obtain ⟨t, hwalk, hrkout⟩ := execAll_nextkeys (i := i) (k := 0) hkey hcursor
  rw [Nat.zero_add] at hrkout
  exact ⟨t, _, hwalk, (exec_getkey i s).trans (execIndexed_admitted _ hkey hindex), hrkout⟩

end Sys2Proof.Machine
end

section
/-!
The laws that the spec infers about the passes of the Feistel engine: DEC undoes ENC for every round
function (42_feistel.md R197), and the zero key's period under ADD8 (R200).
-/

namespace Sys2Proof.Machine

open Sys2Proof

/-! ### The round trip -/

/-- DEC meets the keys of ENC in reverse order, so that each round it undoes is the last one left
(42_feistel.md R197). -/
theorem decRounds_encRounds (f : RoundFn) (key : Nat → Block128) (n : Nat)
    (p : Block128 × Block128) : decRounds f key n (encRounds f key n p) = p := by
  induction n with
  | zero => rfl
  | succ n ih => rw [encRounds, decRounds, decRound_encRound, ih]

/-- On the scheduled variant the round keys come from W and OORPOL alone (42_feistel.md R198). -/
theorem engineKey_congr_of_sched {s u : State} (hs : s.variant = .sched) (hu : u.variant = .sched)
    (hw : u.w = s.w) (hpol : u.oorpol = s.oorpol) : engineKey u = engineKey s := by
  funext r
  rw [engineKey, engineKey, hs, hu, hw, hpol]

/-- The registers that the round trip needs unchanged between ENC and DEC (42_feistel.md R197). -/
structure AgreesForDec (t u : State) : Prop where
  left : u.left = t.left
  right : u.right = t.right
  engine : u.engine = t.engine
  variant : u.variant = t.variant
  lastop : u.lastop = t.lastop
  w : u.w = t.w
  rfsel : u.rfsel = t.rfsel
  oorpol : u.oorpol = t.oorpol

theorem AgreesForDec.refl (t : State) : AgreesForDec t t := ⟨rfl, rfl, rfl, rfl, rfl, rfl, rfl, rfl⟩

/-- DEC n completes wherever ENC n did, and restores the halves (42_feistel.md R197). -/
theorem exec_dec_restores_halves {s u : State} {n : Nat} (hsched : s.variant = .sched) (hn : n ≠ 0)
    (hpol : withinPolicy s n) (hagree : AgreesForDec (complete (encPass n s)) u) :
    ∃ v, exec (.dec n) u = .next v ∧ v.left = s.left ∧ v.right = s.right := by
  have hu : u.variant = .sched := hagree.variant.trans hsched
  have hkeys : engineKey u = engineKey s :=
    engineKey_congr_of_sched hsched hu hagree.w hagree.oorpol
  have hback : decRounds u.rfsel (engineKey u) n (u.left, u.right) = (s.left, s.right) := by
    rw [hkeys, hagree.rfsel, hagree.left, hagree.right]
    exact decRounds_encRounds s.rfsel (engineKey s) n (s.left, s.right)
  exact ⟨_, exec_dec_within_policy hu (.inr ⟨hagree.engine, hagree.lastop⟩) hn
    (fun hfault => hpol (hagree.oorpol ▸ hfault)), congrArg Prod.fst hback, congrArg Prod.snd hback⟩

/-- An ENC that raised no fault passed all of its checks (42_feistel.md R193). -/
theorem exec_enc_of_no_err {s t : State} {n : Nat} (h : exec (.enc n) s = .next t)
    (hok : t.err = false) :
    n ≠ 0 ∧ (s.variant = .sched → withinPolicy s n) ∧ t = complete (encPass n s) := by
  rcases execEnc_next h with ⟨-, rfl⟩ | ⟨-, -, rfl⟩ | ⟨-, -, -, -, rfl⟩ | ⟨-, hn, hpol, rfl⟩
  case inr.inr.inr => exact ⟨hn, hpol, rfl⟩
  all_goals simp at hok

/-- Settles O58: an ENC without a fault is the full pass, which DEC undoes. -/
theorem decUndoesEnc : Obligations.DecUndoesEnc := by
  intro s t u n hsched _ henc hok hleft hright hengine hvariant hlastop hw hrfsel hoorpol
  obtain ⟨hn, hpol, rfl⟩ := exec_enc_of_no_err henc hok
  exact exec_dec_restores_halves hsched hn (hpol hsched)
    ⟨hleft, hright, hengine, hvariant, hlastop, hw, hrfsel, hoorpol⟩

/-- Settles O59: INITS splits BLK, DEC restores the halves it made, and JOIN joins them again. -/
theorem encryptDecryptJoinRestoresBlk : Obligations.EncryptDecryptJoinRestoresBlk := by
  intro s n hkey hn hpol
  obtain ⟨s₁, hinits, hready, hsched, hpol₁, hl, hr⟩ : ∃ s₁, exec .inits s = .next s₁ ∧
      s₁.engine = .ready ∧ s₁.variant = .sched ∧ withinPolicy s₁ n ∧
      s₁.left = splitLeft s.blk ∧ s₁.right = splitRight s.blk :=
    ⟨_, exec_inits_of_key hkey, rfl, rfl, hpol, rfl, rfl⟩
  have henc := exec_enc_of_ready hready hn fun _ => hpol₁
  obtain ⟨v, hdec, hleft, hright⟩ := exec_dec_restores_halves hsched hn hpol₁ (AgreesForDec.refl _)
  refine ⟨{ v with blk := joinBlocks v.left v.right, busy := false }, ?completes, ?restored⟩
  case completes =>
    rw [execAll_cons hinits, execAll_cons henc, execAll_cons hdec, execAll_cons (exec_join v)]
    rfl
  case restored =>
    change joinBlocks v.left v.right = s.blk
    rw [hleft, hright, hl, hr, joinBlocks_split]

/-! ### The zero key's period under ADD8 -/

theorem add8_zeroBlock (x : Block128) : add8 x (zeroBlock 16) = x := by
  ext j hj : 1
  rw [add8_getElem, show (zeroBlock 16)[j] = 0#8 from zeroBlock_getElem ⟨j, hj⟩, BitVec.add_zero]

theorem eq_zeroBlock {k : Block128} (h : ∀ j : Fin 16, k[j] = 0#8) : k = zeroBlock 16 := by
  ext j hj : 1
  exact (h ⟨j, hj⟩).trans (zeroBlock_getElem ⟨j, hj⟩).symm

/-- With the zero key an ADD8 round only XORs the halves and swaps them (42_feistel.md R196). -/
theorem encRound_add8_zeroBlock (l r : Block128) :
    encRound .add8 (zeroBlock 16) (l, r) = (xor128 r l, l) := by
  rw [encRound, roundFunction_add8, add8_zeroBlock]

/-- Of l, r and their XOR each round keeps two and makes the third again: after three rounds all are
back in place. -/
theorem encRound_add8_zeroBlock_three (p : Block128 × Block128) :
    encRound .add8 (zeroBlock 16) (encRound .add8 (zeroBlock 16)
      (encRound .add8 (zeroBlock 16) p)) = p := by
  obtain ⟨l, r⟩ := p
  have hthird : xor128 (xor128 r l) r = l := by rw [xor128_comm r l, xor128_cancel_right]
  simp only [encRound_add8_zeroBlock, xor128_cancel_left, hthird]

/-- ENC's rounds on the fixed variant with a zero key under ADD8 (42_feistel.md R198, R200). -/
theorem encRounds_add_three {key : Nat → Block128} (hkey : ∀ r, key r = zeroBlock 16) (n : Nat)
    (p : Block128 × Block128) : encRounds .add8 key (n + 3) p = encRounds .add8 key n p := by
  rw [encRounds, encRounds, encRounds, hkey, hkey, hkey, encRound_add8_zeroBlock_three]

/-- Settles O60: both passes complete, and the three further rounds of the second change nothing. -/
theorem zeroKeyFixedVariantHasPeriodThree : Obligations.ZeroKeyFixedVariantHasPeriodThree := by
  intro s t u n hready hfixed hadd hzero hn ht hu
  have hpol (m : Nat) : s.variant = .sched → withinPolicy s m := by simp [hfixed]
  rw [exec_enc_of_ready hready hn (hpol n)] at ht
  rw [exec_enc_of_ready hready (Nat.succ_ne_zero _) (hpol (n + 3))] at hu
  cases ht
  cases hu
  have hkey (r : Nat) : engineKey s r = zeroBlock 16 :=
    (engineKey_fixed hfixed r).trans (eq_zeroBlock hzero)
  have hrounds : encRounds s.rfsel (engineKey s) (n + 3) (s.left, s.right) =
      encRounds s.rfsel (engineKey s) n (s.left, s.right) := by
    rw [hadd, encRounds_add_three hkey]
  exact ⟨congrArg Prod.fst hrounds, congrArg Prod.snd hrounds⟩

end Sys2Proof.Machine
end
